-- ==== Sys2Proof/Word.lean ====
section
/-! DEFINITION. The number types of the block: an 8-bit byte and the 16-bit checksum word (R7: bit 0 is the
least significant, every quantity unsigned). -/

namespace Sys2Proof

/-- A byte, 8 bits (R7). -/
abbrev Byte := BitVec 8

/-- The width of the CRC register and of the checksum (R21, R53). -/
abbrev Word := BitVec 16

end Sys2Proof
end

