-- ==== Sys2Proof/Syntax.lean ====
section
/-! DEFINITION. What the machine is told to do: frames and requests (R22, R25), the results a port gives to a read
(R93, R212), the instructions, one constructor per row of spec/opcode_table.json (R96), the three kinds of code word
that encode them (R84, R94, R95), and the moves of the agents (R12, R14). -/

namespace Sys2Proof

/-- A Frame (R22): three fields and no checksum field. -/
structure Frame where
  address  : Byte
  function : Byte
  data     : List Byte
deriving DecidableEq, Repr, Inhabited

/-- The identity of a port (R32): opaque, the block only copies it into Requests. -/
structure PortId where
  num : Nat
deriving DecidableEq, Repr, Inhabited

/-- A Request (R25): the originating port and a decoded Frame, the unit handed to the sink. -/
structure Request where
  port  : PortId
  frame : Frame
deriving DecidableEq, Repr, Inhabited

/-- The results of one bounded-time read (R93, R212). Bytes come only with OK: a completion with an error status and
bytes is not a move the port has (R93, D5), so the type cannot express it. `ok []` is the zero-byte read. -/
inductive ReadResult where
  | ok (bytes : List Byte)
  | timeout
  | fatal
  | eos
deriving DecidableEq, Repr, Inhabited

/-- The instructions: every row of spec/opcode_table.json, in its order. A FRAME row carries the function byte that
selected it (R84); the OP rows (R94) take their operands from the codec interface and the SEL rows (R95) from the
selected reassembler's state and inputs. -/
inductive Instr where
  -- FRAME rows (R84): the function byte of the buffer given to DECODE
  | frameFixed8_00_03 (fn : Byte)
  | frameFixed8_04_05 (fn : Byte)
  | frameVar_06_07 (fn : Byte)
  | frameVar_08_0F (fn : Byte)
  | frameVar_10_1F (fn : Byte)
  | frameVar_20_3F (fn : Byte)
  | frameVar_40_7F (fn : Byte)
  | frameVar_80_FF (fn : Byte)
  -- OP rows (R94)
  | crc16
  | crcCheck
  | decode
  | encode
  | setException
  | copy
  | getFunction
  | getData
  | setData
  | crcInit
  | crcByte
  | crcBit
  -- SEL rows (R95)
  | pollShutdown
  | pollContinue
  | rxData
  | rxZero
  | rxTimeout
  | rxFatal
  | rxEos
  | drainOk
  | drainTooShort
  | drainBadCrc
  | pushComplete
  | pushBlocked
  | termHalt
deriving DecidableEq, Repr

/-- A code word of one of the three formats of the opcode table (R96): the function byte, the 4-bit OP code, the
10-bit SEL word. -/
inductive Code where
  | frame (fn : Byte)
  | op (code : BitVec 4)
  | sel (word : BitVec 10)
deriving DecidableEq, Repr

/-- The three formats of the opcode table (R96). -/
inductive Format where
  | frame
  | op
  | sel
deriving DecidableEq, Repr

/-- The operands a codec caller supplies (R94, R114 to R145): a byte sequence (`m`, `cand`, `buf`, `d`), a Frame, a
byte (`code`, `b`). Each operation reads the ones its rule names. -/
structure Args where
  bytes : List Byte
  frame : Frame
  byte  : Byte
deriving DecidableEq, Repr, Inhabited

/-- One move of one agent (R12, R14). Instances are named by their position (the subscript p of the rules). -/
inductive Move where
  /-- Instance p takes the step it can take without the environment (POLL, DRAIN, PUSH, TERM). -/
  | run (p : Nat)
  /-- The port of instance p completes the outstanding read with r (R212), which is the instance's RX step (R163). -/
  | rx (p : Nat) (r : ReadResult)
  /-- The sink consumer removes the head of SINK (R215). -/
  | pop
  /-- The controller sets the SHUTDOWN input of instance p (R216). -/
  | shutdown (p : Nat) (level : Bool)
  /-- The controller creates a new instance on port p (R39, R216). -/
  | create (p : Nat)
  /-- An outside caller calls the codec operation with this OP code (R94, R130). -/
  | call (op : BitVec 4) (args : Args)
  /-- An outside caller gives a buffer to the frame parser, which dispatches on its function byte (R83, R84). -/
  | parse (buf : List Byte)
deriving DecidableEq, Repr, Inhabited

end Sys2Proof
end

