-- ==== Sys2Proof/Config.lean ====
section
/-! DEFINITION. What an implementation fixes (R6) and the free values. A parameter the spec leaves OPEN with no default
is an opaque constant, so nothing can be proved of its value; the parameters the spec gives a default start there. The
hardwired constants of R5 are in Machine/Constants.lean. -/

namespace Sys2Proof

/-- How an end-of-stream read result is treated (R6, R168). -/
inductive EosAs where
  | timeout
  | fatal
  | zero
deriving DecidableEq, Repr, Inhabited

/-- The parameters of R6 that a rule of operation reads; `none` is unbounded. NPORTS is the number of instances in
State. READ_TIMEOUT is no number of the model (D11). Fixed while the machine runs: no step writes them (R30). -/
structure Params where
  /-- `SINK_CAP`, capacity of the request sink. -/
  sinkCap : Nat
  /-- `BUF_CAP`, most bytes BUF may hold. -/
  bufCap  : Option Nat
  /-- `READ_MAX`, most bytes one read may return. -/
  readMax : Option Nat
  /-- `DATA_MAX`, most bytes of data ENCODE accepts and a Frame is given (R6, R22; log entry 22). -/
  dataMax : Option Nat
  /-- `EOS_AS`, how an end-of-stream read result is treated. -/
  eosAs   : EosAs
deriving DecidableEq, Repr

/-- NPORTS less one (R6, D12: OPEN, at least 1). DESIGN CHOICE, log entry 1. -/
opaque Config.extraPorts : Nat

/-- SINK_CAP less one (R6, D10: OPEN, at least 1). DESIGN CHOICE, log entry 1. -/
opaque Config.extraSinkCap : Nat

/-- EOS_AS (R6, D4: OPEN, no default). DESIGN CHOICE, log entry 1. -/
opaque Config.eosAs : EosAs

/-- The agents' free choice of a move, used when State lists none; applied to a counter (R37, I1 to I3, I8, I9, I11).
DESIGN CHOICE, log entry 2. -/
opaque Config.freeMove : Nat → Move

/-- What ENCODE of this frame returns when its data is longer than this finite DATA_MAX: the spec states no result
there (R6, R22, I13), so nothing is known of it but that it depends on these two only (R57). DESIGN CHOICE, log entry 22. -/
opaque Config.encodeBeyond : Nat → Frame → List Byte

/-- The data of the frame SET_DATA returns when d is longer than this finite DATA_MAX: arguments are DATA_MAX, the frame
and d. The spec states no Frame with such data (R22, I13). DESIGN CHOICE, log entry 22. -/
opaque Config.dataBeyond : Nat → Frame → List Byte → List Byte

/-- NPORTS of the machine at reset. -/
def Config.nports : Nat := Config.extraPorts + 1

/-- The parameters of the machine at reset: the spec's defaults where it has one (D8, D9, D32), free where it has none. -/
def Config.params : Params where
  sinkCap := Config.extraSinkCap + 1
  bufCap  := none
  readMax := none
  dataMax := none
  eosAs   := Config.eosAs

end Sys2Proof
end

