-- ==== Sys2Proof/Machine/State.lean ====
section
/-! DEFINITION. The state of the machine as plain data, the reasons a step can stop, and the state after reset (R20,
R39, R240). The inventory of the spec's state is INVENTORY.md, "State". -/

namespace Sys2Proof.Machine

/-- The control state of a reassembler instance with the registers that exist in it (R20, R24 to R27). PEND and REM
exist in PUSH only (R25, R26); after termination BUF, PEND and REM cease to exist (R174, D15); an instance that took
BufferOverflow keeps BUF and stays in READ but takes no further step (R66, R208). Log entry 9. -/
inductive Ctl where
  | poll (buf : List Byte)
  | read (buf : List Byte)
  | drain (buf : List Byte)
  | push (buf : List Byte) (pend : Request) (rem : List Byte)
  | term
  | faulted (buf : List Byte)
deriving DecidableEq, Repr

/-- One reassembler instance (R20): the constant PORT_ID (R32), the level of its SHUTDOWN input (R31), its registers. -/
structure Instance where
  portId   : PortId
  shutdown : Bool
  ctl      : Ctl
deriving DecidableEq, Repr

/-- The result `(status, frame, rem)` of DECODE (R11, R131): the frame exists only when the status is Ok. -/
inductive DecodeResult where
  | ok (frame : Frame) (rem : List Byte)
  | tooShort (rem : List Byte)
  | checksumMismatch (rem : List Byte)
deriving DecidableEq, Repr

/-- What a codec call returned to its caller (R11, R114 to R145); `empty` before the first call. -/
inductive Result where
  | empty
  | word (w : Word)
  | flag (b : Bool)
  | decoded (d : DecodeResult)
  | bytes (s : List Byte)
  | frame (f : Frame)
  | byte (b : Byte)
deriving DecidableEq, Repr

/-- The codec's interface to outside callers (R94, R130): the operands of the call, its result, and the CRC register of
the caller's own CRC.INIT, CRC.BYTE, CRC.BIT computation (R21). Log entries 7 and 8. -/
structure Codec where
  crc    : Word
  args   : Args
  result : Result
deriving DecidableEq, Repr

/-- The state of the whole system (R20). -/
structure State where
  /-- The parameters of R6; no step writes them. -/
  params : Params
  /-- The reassembler instances; NPORTS is the length. -/
  insts  : List Instance
  /-- The request queue, head first (R34). -/
  sink   : List Request
  /-- The instance whose transition is taken: the subscript p of the rules. -/
  cur    : Nat
  /-- The read result the port presents to that instance in this step (R93). -/
  rx     : Option ReadResult
  /-- The codec's interface. -/
  codec  : Codec
  /-- The moves the agents make next, first one first (log entry 2). -/
  env    : List Move
  /-- How many moves were free choices of the agents, not listed in env (log entry 2). -/
  tick   : Nat
deriving DecidableEq, Repr

/-- Why the machine stops with a fault: never, so there is no constructor. The block's only fault is BufferOverflow
(R200, D28), and it stops one instance, not the system (R66, R208): a next state with that instance in `Ctl.faulted`.
Safe, log entry 10. -/
inductive Fault where
deriving DecidableEq, Repr

/-- Why an instruction or a move has no meaning in this state. -/
inductive Refusal where
  /-- An instruction with no meaning in the model, named by its mnemonic. Raised by no arm of exec. Safe. -/
  | notModelled (mnemonic : String)
  /-- Raised by a FRAME or SEL instruction executed where the function byte, PHASE or an input does not select it
  (R84, R95: in any state one row applies). A step never executes such an instruction. Safe, log entry 13. -/
  | notSelected
  /-- Raised by CRC.CHECK of fewer than 2 bytes: "not defined and is never invoked (refused by the model)" (R115). Safe. -/
  | crcCheckTooShort
  /-- Raised by a codec call with OP 0xC to 0xF (R94, I16). Safe. -/
  | reservedOp
  /-- Raised by a step whose SEL word matches no row (R95, I16). No state gives such a word. Safe. -/
  | noSelRow
  /-- Raised by a code of the wrong length; a step builds codes, so never. Safe. -/
  | badBytes
  /-- Raised by a move or a SEL instruction for an instance which does not exist (R223): an ill-formed move is refused,
  never a fault (D28). Safe, log entry 18. -/
  | noSuchInstance
  /-- Raised by the move of a port that completes a read which was not issued (R212, D28). Safe. -/
  | noReadPending
  /-- Raised by the move of a port that returns more than READ_MAX bytes (R212). Safe. -/
  | chunkTooLong
  /-- Raised by the move of the consumer on an empty SINK (R215: it moves "when SINK is not empty"). Safe. -/
  | sinkEmpty
  /-- Raised by the creation of an instance on a port whose instance has not terminated (R39, R240, I19). Safe. -/
  | portInUse
deriving DecidableEq, Repr

/-- An instance at its creation (R39): PHASE = POLL, BUF = [], PEND = none, REM = []. The SHUTDOWN input is the
controller's: 0 at system reset, DESIGN CHOICE, log entry 5. Port identities are numbered, log entry 4. -/
def Instance.fresh (k : Nat) : Instance where
  portId   := ⟨k⟩
  shutdown := false
  ctl      := .poll []

/-- The codec's interface before any call. CRC has no value outside a computation (R39): the model names 0xFFFF, the
initial value of every computation, DESIGN CHOICE, log entry 6. -/
def Codec.reset : Codec where
  crc    := 0xFFFF#16
  args   := ⟨[], ⟨0, 0, []⟩, 0⟩
  result := .empty

/-- The machine right after system reset (R39, R240): NPORTS fresh instances, SINK empty, no agent's move listed. -/
def State.reset : State where
  params := Config.params
  insts  := (List.range' 0 Config.nports).map Instance.fresh
  sink   := []
  cur    := 0
  rx     := none
  codec  := Codec.reset
  env    := []
  tick   := 0

end Sys2Proof.Machine
end

