-- ==== Sys2Proof/Machine/Constants.lean ====
section
/-! DEFINITION. The hardwired constants of R5, each in one place. The document's literals are unaudited (D31), so each
is a definition that an audit can change here. UNVERIFIED, log entry 23. -/

namespace Sys2Proof.Machine

/-- `MIN_LEN`: least buffer length DECODE will consider. -/
def minLen : Nat := 5

/-- `FIXED_FC_MAX`: greatest function code of the fixed-length class, compared unsigned on the whole byte (D29). -/
def fixedFcMax : Nat := 5

/-- `FIXED_LEN`: wire length of a fixed-length-class frame. -/
def fixedLen : Nat := 8

/-- `CRC_LEN`: bytes of checksum at the end of a frame. -/
def crcLen : Nat := 2

/-- `HDR_LEN`: address byte plus function byte. -/
def hdrLen : Nat := 2

/-- `CRC_INIT`: initial value of the CRC register. -/
def crcInit : Word := 0xFFFF#16

/-- `CRC_POLY`: the reflected polynomial. -/
def crcPoly : Word := 0xA001#16

/-- `CRC_BITS`: shift steps per input byte. -/
def crcBits : Nat := 8

/-- `EXC_BIT`: the bit of `function` that marks an exception response. -/
def excBit : Byte := 0x80#8

end Sys2Proof.Machine
end

