-- ==== Sys2Proof/Machine/Operands.lean ====
section
/-! DEFINITION. The operand forms: byte sequences and their slices (R8), the little-endian read of R10, the fields of a
candidate frame (R52, R81, R85, R86), the two length classes (R83), the received checksum (R53). -/

namespace Sys2Proof.Machine

/-- The half-open slice `s[a:b]` (R8), of length b - a when a ≤ b ≤ len(s). -/
def slice (s : List Byte) (a b : Nat) : List Byte := (s.drop a).take (b - a)

/-- The byte at offset i. The rules read only offsets below the length (R51); the value past the end is never used. -/
def byteAt (s : List Byte) (i : Nat) : Byte := s.getD i 0#8

/-- `MemRead(addr, n)` of R10: n bytes of a buffer from addr, as a little-endian number. -/
def memRead (s : List Byte) (addr : Nat) : Nat → Nat
  | 0 => 0
  | n + 1 => (byteAt s addr).toNat + 256 * memRead s (addr + 1) n

/-- The checksum as it travels, low byte first (R53, R81). -/
def crcBytes (c : Word) : List Byte := [c.extractLsb' 0 8, c.extractLsb' 8 8]

/-- `rx`, the received checksum of a candidate: its last two bytes, the lower offset the low byte (R53, R85). -/
def rxChecksum (cand : List Byte) : Word :=
  (byteAt cand (cand.length - 2)).setWidth 16 ||| ((byteAt cand (cand.length - 1)).setWidth 16 <<< 8)

/-- The bytes a candidate's checksum is computed over: all that precede the checksum (R81). -/
def covered (cand : List Byte) : List Byte := slice cand 0 (cand.length - crcLen)

/-- The fields of a candidate taken without any transformation (R86): address, function, data = cand[2:N-2]. -/
def frameOf (cand : List Byte) : Frame where
  address  := byteAt cand 0
  function := byteAt cand 1
  data     := slice cand hdrLen (cand.length - crcLen)

/-- Address, function and data in wire order: what ENCODE computes the checksum over (R135). -/
def frameBody (f : Frame) : List Byte := [f.address, f.function] ++ f.data

/-- The fixed-length class: function byte ≤ 5, unsigned, the whole byte (R83, D29). -/
def isFixed (fn : Byte) : Bool := decide (fn.toNat ≤ fixedFcMax)

/-- A length is within a bound that may be absent (R6). -/
def fits (bound : Option Nat) (n : Nat) : Bool :=
  match bound with
  | none => true
  | some b => decide (n ≤ b)

end Sys2Proof.Machine
end

