-- ==== Sys2Proof/Machine/Ops.lean ====
section
/-! DEFINITION. The named operations on the state: the registers of an instance (R20, R27), the selected instance,
ending a read, the line-idle wipe (R164), termination (R161, R165), the one fault BufferOverflow (R66, R208), the
hand-off (R172), and the codec's result. Every meaning is made of these. -/

namespace Sys2Proof.Machine

/-- The outcome of a step of this machine. -/
abbrev Out := Host.Outcome State Fault Refusal

/-- The five values of PHASE (R27). -/
inductive Phase where
  | poll | read | drain | push | term
deriving DecidableEq, Repr

/-- The number of a phase, used in SEL only (R27, D3). -/
def Phase.code : Phase → BitVec 3
  | .poll => 0#3
  | .read => 1#3
  | .drain => 2#3
  | .push => 3#3
  | .term => 4#3

/-- PHASE (R27). A faulted instance keeps the phase it was in, READ (R208). -/
def Ctl.phase : Ctl → Phase
  | .poll _ => .poll
  | .read _ => .read
  | .drain _ => .drain
  | .push _ _ _ => .push
  | .term => .term
  | .faulted _ => .read

/-- BUF, which no longer exists in TERM (R24, R174). -/
def Ctl.buf : Ctl → Option (List Byte)
  | .poll b | .read b | .drain b | .push b _ _ | .faulted b => some b
  | .term => none

/-- PEND: none in every phase but PUSH (R25). -/
def Ctl.pend : Ctl → Option Request
  | .push _ q _ => some q
  | .poll _ | .read _ | .drain _ | .term | .faulted _ => none

/-- REM: [] outside PUSH (R26). -/
def Ctl.rem : Ctl → List Byte
  | .push _ _ r => r
  | .poll _ | .read _ | .drain _ | .term | .faulted _ => []

/-- Carry on with the selected instance; there is none at an index with no port. -/
def State.onSelected (s : State) (k : Instance → Out) : Out :=
  match s.insts[s.cur]? with
  | some i => k i
  | none => .refused .noSuchInstance

/-- Carry on with the selected instance when it is in READ and its port has completed the read (R163). -/
def State.onRead (s : State) (k : Instance → List Byte → ReadResult → Out) : Out :=
  s.onSelected fun i =>
    match i.ctl, s.rx with
    | .read b, some r => k i b r
    | _, _ => .refused .notSelected

/-- Write the selected instance's registers; i is that instance. PORT_ID and SHUTDOWN stay (R31, R32). -/
def State.setCtl (s : State) (i : Instance) (c : Ctl) : State :=
  { s with insts := s.insts.set s.cur { i with ctl := c } }

/-- The read result is consumed by the step that handles it (R57, R205). -/
def State.endRead (s : State) : State := { s with rx := none }

/-- Return to Reading, by way of the shutdown check, with this buffer (R209). -/
def State.backToPoll (s : State) (i : Instance) (buf : List Byte) : State := s.setCtl i (.poll buf)

/-- The idle-line boundary: BUF <- [], PHASE <- POLL (R164). -/
def State.lineIdle (s : State) (i : Instance) : State := s.backToPoll i []

/-- PHASE <- TERM: the port is released and BUF, PEND, REM cease to exist (R161, R165, R174). -/
def State.terminate (s : State) (i : Instance) : State := s.setCtl i .term

/-- `raise BufferOverflow` (R66, R208): the block's one fault. Nothing is saved and no handler exists; BUF and PHASE are
unchanged, the instance is marked faulted and takes no further step, every other instance goes on. Log entry 10. -/
def State.raiseBufferOverflow (s : State) (i : Instance) (buf : List Byte) : State := s.setCtl i (.faulted buf)

/-- `BUF_CAP is finite and len(BUF) + N > BUF_CAP` (R66). -/
def State.overflows (s : State) (buf bytes : List Byte) : Bool :=
  !fits s.params.bufCap (buf.length + bytes.length)

/-- `len(SINK) < SINK_CAP` (R29, R95): the sink has room. -/
def State.room (s : State) : Bool := decide (s.sink.length < s.params.sinkCap)

/-- The hand-off (R172): SINK <- SINK ++ [PEND], BUF <- REM, PEND <- none, REM <- [], PHASE <- DRAIN, in one step. -/
def State.handOff (s : State) (i : Instance) (pend : Request) (rem : List Byte) : State :=
  { s.setCtl i (.drain rem) with sink := s.sink ++ [pend] }

/-- Return a result to the codec's caller. -/
def State.returns (s : State) (r : Result) : State := { s with codec := { s.codec with result := r } }

/-- Write the CRC register of the caller's computation (R21). -/
def State.setCrc (s : State) (c : Word) : State := { s with codec := { s.codec with crc := c } }

end Sys2Proof.Machine
end

