-- ==== Sys2Proof/Machine/Crc.lean ====
section
/-! DEFINITION. The CRC-16 family (40_crc16.md): the three micro-operations on the CRC register, CRC16, CRC.CHECK. -/

namespace Sys2Proof.Machine

/-- One shift step (R112): the test is on bit 0 before the shift, the XOR is applied to the shifted value. -/
def crcBitStep (c : Word) : Word :=
  if c.getLsbD 0 then (c >>> 1) ^^^ crcPoly else c >>> 1

/-- One input byte (R113): XOR into the low byte, then eight shift steps. -/
def crcByteStep (c : Word) (b : Byte) : Word :=
  Nat.repeat crcBitStep crcBits (c ^^^ b.setWidth 16)

/-- The checksum of a byte sequence (R114): from CRC_INIT, one byte step per byte from offset 0 upward; no final XOR. -/
def crc16 (m : List Byte) : Word := m.foldl crcByteStep crcInit

/-- The checksum comparison (R115): the last two bytes, little-endian, against the CRC of all that precede them. -/
def crcCheck (cand : List Byte) : Bool := rxChecksum cand == crc16 (covered cand)

/-- CRC.INIT (R111): CRC <- 0xFFFF. -/
def execCrcInit (s : State) : Out := .next (s.setCrc crcInit)

/-- CRC.BIT (R112). -/
def execCrcBit (s : State) : Out := .next (s.setCrc (crcBitStep s.codec.crc))

/-- CRC.BYTE b (R113). -/
def execCrcByte (s : State) : Out := .next (s.setCrc (crcByteStep s.codec.crc s.codec.args.byte))

/-- CRC16 m (R114). The computation's CRC register is its own (R21), so the caller's is untouched (log entry 7). -/
def execCrc16 (s : State) : Out := .next (s.returns (.word (crc16 s.codec.args.bytes)))

/-- CRC.CHECK cand (R115), refused for fewer than 2 bytes, as the rule says. -/
def execCrcCheck (s : State) : Out :=
  if crcLen ≤ s.codec.args.bytes.length then .next (s.returns (.flag (crcCheck s.codec.args.bytes)))
  else .refused .crcCheckTooShort

end Sys2Proof.Machine
end

