-- ==== Sys2Proof/Machine/Codec.lean ====
section
/-! DEFINITION. The frame codec (41_frame_codec.md): DECODE with its two length classes, ENCODE, SET_EXCEPTION, COPY and
the accessors, the meaning of each OP row, and of each FRAME row: DECODE of a buffer whose function byte has selected
the row (R84, R131). -/

namespace Sys2Proof.Machine

/-- Lines (5) and (6) of R131: check the candidate, then take its fields; a mismatch empties the remainder. R131 is total,
so with a finite DATA_MAX a frame with more data than R22 bounds is built all the same: DESIGN CHOICE, log entry 28. -/
def judge (cand rem : List Byte) : DecodeResult :=
  if crcCheck cand then .ok (frameOf cand) rem else .checksumMismatch []

/-- Fixed-length class, lines (2) and (3) of R131: eight bytes, the excess is the remainder. -/
def decodeFixed (buf : List Byte) : DecodeResult :=
  if buf.length < fixedLen then .tooShort buf
  else judge (slice buf 0 fixedLen) (slice buf fixedLen buf.length)

/-- Variable-length class, line (4) of R131: the whole buffer is the candidate, never split (R90). -/
def decodeVar (buf : List Byte) : DecodeResult := judge buf []

/-- DECODE (R131), total. -/
def decodeBuf (buf : List Byte) : DecodeResult :=
  if buf.length < minLen then .tooShort buf
  else if isFixed (byteAt buf 1) then decodeFixed buf
  else decodeVar buf

/-- ENCODE (R135), total: the body and its checksum, low byte first. -/
def encodeFrame (f : Frame) : List Byte := frameBody f ++ crcBytes (crc16 (frameBody f))

/-- SET_EXCEPTION (R140): function OR 0x80, data the single exception code. -/
def setException (f : Frame) (code : Byte) : Frame :=
  { f with function := f.function ||| excBit, data := [code] }

/-- COPY (R142): an equal frame; with immutable values, the identity field by field. -/
def copyFrame (f : Frame) : Frame where
  address  := f.address
  function := f.function
  data     := slice f.data 0 f.data.length

/-- SET_DATA (R145): data replaced, no checks. -/
def setData (f : Frame) (d : List Byte) : Frame := { f with data := d }

/-- A value for a length DATA_MAX admits, and one beyond a finite DATA_MAX, which is given that bound (R6, log entry 22). -/
def byDataMax {α : Type} (dataMax : Option Nat) (n : Nat) (within : α) (beyond : Nat → α) : α :=
  match dataMax with
  | none => within
  | some m => if n ≤ m then within else beyond m

/-- DECODE buf (R131). -/
def execDecode (s : State) : Out := .next (s.returns (.decoded (decodeBuf s.codec.args.bytes)))

/-- ENCODE frame (R135); for data longer than a finite DATA_MAX the returned bytes are a free value (log entry 22). -/
def execEncode (s : State) : Out :=
  let f := s.codec.args.frame
  .next (s.returns (.bytes (byDataMax s.params.dataMax f.data.length (encodeFrame f) fun m => Config.encodeBeyond m f)))

/-- SET_EXCEPTION frame, code (R140). -/
def execSetException (s : State) : Out :=
  .next (s.returns (.frame (setException s.codec.args.frame s.codec.args.byte)))

/-- COPY frame (R142). -/
def execCopy (s : State) : Out := .next (s.returns (.frame (copyFrame s.codec.args.frame)))

/-- GET_FUNCTION frame (R143): bit 7 as stored. -/
def execGetFunction (s : State) : Out := .next (s.returns (.byte s.codec.args.frame.function))

/-- GET_DATA frame (R144). -/
def execGetData (s : State) : Out := .next (s.returns (.bytes s.codec.args.frame.data))

/-- SET_DATA frame, d (R145): address and function unchanged; for d longer than a finite DATA_MAX the new data is a free
value (log entry 22). -/
def execSetData (s : State) : Out :=
  let f := s.codec.args.frame
  let d := s.codec.args.bytes
  .next (s.returns (.frame (setData f (byDataMax s.params.dataMax d.length d fun m => Config.dataBeyond m f d))))

/-- A FRAME row on the codec argument buffer: it applies when the buffer has reached the dispatch (length at least 5,
R51), its byte at offset 1 is the row's function byte, and that byte is in the row's pattern (R84). Log entry 14. -/
def State.onFrame (s : State) (mask value fn : Byte) (dec : List Byte → DecodeResult) : Out :=
  if decide (minLen ≤ s.codec.args.bytes.length) && byteAt s.codec.args.bytes 1 == fn && fn &&& mask == value then
    .next (s.returns (.decoded (dec s.codec.args.bytes)))
  else .refused .notSelected

/-- FRAME.FIXED8.00_03 (R84, R131). -/
def execFrameFixed8_00_03 (fn : Byte) (s : State) : Out := s.onFrame 0xFC#8 0x00#8 fn decodeFixed

/-- FRAME.FIXED8.04_05 (R84, R131). -/
def execFrameFixed8_04_05 (fn : Byte) (s : State) : Out := s.onFrame 0xFE#8 0x04#8 fn decodeFixed

/-- FRAME.VAR.06_07 (R84, R131). -/
def execFrameVar_06_07 (fn : Byte) (s : State) : Out := s.onFrame 0xFE#8 0x06#8 fn decodeVar

/-- FRAME.VAR.08_0F (R84, R131). -/
def execFrameVar_08_0F (fn : Byte) (s : State) : Out := s.onFrame 0xF8#8 0x08#8 fn decodeVar

/-- FRAME.VAR.10_1F (R84, R131). -/
def execFrameVar_10_1F (fn : Byte) (s : State) : Out := s.onFrame 0xF0#8 0x10#8 fn decodeVar

/-- FRAME.VAR.20_3F (R84, R131). -/
def execFrameVar_20_3F (fn : Byte) (s : State) : Out := s.onFrame 0xE0#8 0x20#8 fn decodeVar

/-- FRAME.VAR.40_7F (R84, R131). -/
def execFrameVar_40_7F (fn : Byte) (s : State) : Out := s.onFrame 0xC0#8 0x40#8 fn decodeVar

/-- FRAME.VAR.80_FF (R84, R131): every exception response is in the variable class. -/
def execFrameVar_80_FF (fn : Byte) (s : State) : Out := s.onFrame 0x80#8 0x80#8 fn decodeVar

end Sys2Proof.Machine
end

