-- ==== Sys2Proof/Machine/Flags.lean ====
section
/-! DEFINITION. The block keeps no flag (R29). Its conditions are computed inside a step: the status of a DECODE (R201),
the read status (R93), room in the sink (R95). Here are their codes and the SEL word assembled from them (R95). -/

namespace Sys2Proof.Machine

/-- The status of a DECODE (R11, R201). -/
inductive Status where
  | ok | tooShort | checksumMismatch
deriving DecidableEq, Repr

/-- The code of a status (R201, D6). -/
def Status.code : Status → BitVec 2
  | .ok => 0#2
  | .tooShort => 1#2
  | .checksumMismatch => 2#2

/-- The status of a result (R11). -/
def DecodeResult.status : DecodeResult → Status
  | .ok _ _ => .ok
  | .tooShort _ => .tooShort
  | .checksumMismatch _ => .checksumMismatch

/-- The frame of a result, none unless the status is Ok (R11). -/
def DecodeResult.frame? : DecodeResult → Option Frame
  | .ok f _ => some f
  | .tooShort _ | .checksumMismatch _ => none

/-- The remainder of a result (R133). -/
def DecodeResult.remainder : DecodeResult → List Byte
  | .ok _ r | .tooShort r | .checksumMismatch r => r

/-- RXS, the read-status code (R93, D3). -/
def rxsCode : ReadResult → BitVec 2
  | .ok _ => 0#2
  | .timeout => 1#2
  | .fatal => 2#2
  | .eos => 3#2

/-- NZ: the completed read returned at least one byte (R95). -/
def rxNonZero : ReadResult → Bool
  | .ok bytes => !bytes.isEmpty
  | .timeout | .fatal | .eos => false

/-- SEL bits [5:4]; 0 when no read has completed, a phase that does not look at them (R95, log entry 16). -/
def State.rxsField (s : State) : BitVec 2 :=
  match s.rx with
  | some r => rxsCode r
  | none => 0#2

/-- SEL bit [3]. -/
def State.nzField (s : State) : Bool :=
  match s.rx with
  | some r => rxNonZero r
  | none => false

/-- SEL bits [2:1]: the status of DECODE(BUF); 0 where there is no BUF (log entry 16). -/
def Ctl.errField (c : Ctl) : BitVec 2 :=
  match c.buf with
  | some b => (decodeBuf b).status.code
  | none => 0#2

/-- The transition selector of instance i (R95): PHASE, SHUT, RXS, NZ, ERR, ROOM from bit 9 down to bit 0. -/
def State.selWord (s : State) (i : Instance) : BitVec 10 :=
  i.ctl.phase.code ++ BitVec.ofBool i.shutdown ++ s.rxsField ++ BitVec.ofBool s.nzField ++ i.ctl.errField ++
    BitVec.ofBool s.room

end Sys2Proof.Machine
end

