-- ==== Sys2Proof/Machine/Reassembler.lean ====
section
/-! DEFINITION. The serial reassembler (42_reassembler.md): the meaning of each SEL row on the selected instance. Each
checks the phase and the inputs its rule names as operands; where they do not select it, it is refused (log entry 13). -/

namespace Sys2Proof.Machine

/-- POLL.SHUTDOWN (R161). -/
def execPollShutdown (s : State) : Out :=
  s.onSelected fun i =>
    match i.ctl, i.shutdown with
    | .poll _, true => .next (s.terminate i)
    | _, _ => .refused .notSelected

/-- POLL.CONTINUE (R162): PHASE <- READ, which issues the read (R163). -/
def execPollContinue (s : State) : Out :=
  s.onSelected fun i =>
    match i.ctl, i.shutdown with
    | .poll b, false => .next (s.setCtl i (.read b))
    | _, _ => .refused .notSelected

/-- RX.DATA bytes (R166): append and drain, or BufferOverflow (R66). -/
def execRxData (s : State) : Out :=
  s.onRead fun i b r =>
    match r with
    | .ok (x :: xs) =>
      .next (if s.overflows b (x :: xs) then (s.raiseBufferOverflow i b).endRead
        else (s.setCtl i (.drain (b ++ x :: xs))).endRead)
    | .ok [] | .timeout | .fatal | .eos => .refused .notSelected

/-- RX.ZERO (R167): BUF kept. -/
def execRxZero (s : State) : Out :=
  s.onRead fun i b r =>
    match r with
    | .ok [] => .next (s.backToPoll i b).endRead
    | .ok (_ :: _) | .timeout | .fatal | .eos => .refused .notSelected

/-- RX.TIMEOUT (R164): the line is idle, BUF discarded. -/
def execRxTimeout (s : State) : Out :=
  s.onRead fun i _ r =>
    match r with
    | .timeout => .next (s.lineIdle i).endRead
    | .ok _ | .fatal | .eos => .refused .notSelected

/-- RX.FATAL (R165): the instance terminates; others are unaffected (R38, R203). -/
def execRxFatal (s : State) : Out :=
  s.onRead fun i _ r =>
    match r with
    | .fatal => .next (s.terminate i).endRead
    | .ok _ | .timeout | .eos => .refused .notSelected

/-- RX.EOS (R168): as EOS_AS says. -/
def execRxEos (s : State) : Out :=
  s.onRead fun i b r =>
    match r with
    | .eos =>
      .next (match s.params.eosAs with
        | .timeout => s.lineIdle i
        | .fatal => s.terminate i
        | .zero => s.backToPoll i b).endRead
    | .ok _ | .timeout | .fatal => .refused .notSelected

/-- DRAIN.TOOSHORT (R169): BUF kept. -/
def execDrainTooShort (s : State) : Out :=
  s.onSelected fun i =>
    match i.ctl with
    | .drain b =>
      match decodeBuf b with
      | .tooShort _ => .next (s.backToPoll i b)
      | .ok _ _ | .checksumMismatch _ => .refused .notSelected
    | .poll _ | .read _ | .push _ _ _ | .term | .faulted _ => .refused .notSelected

/-- DRAIN.BADCRC (R170): BUF becomes the empty remainder. -/
def execDrainBadCrc (s : State) : Out :=
  s.onSelected fun i =>
    match i.ctl with
    | .drain b =>
      match decodeBuf b with
      | .checksumMismatch rem => .next (s.backToPoll i rem)
      | .ok _ _ | .tooShort _ => .refused .notSelected
    | .poll _ | .read _ | .push _ _ _ | .term | .faulted _ => .refused .notSelected

/-- DRAIN.OK (R171): the Request is built; BUF is not yet changed (R26). -/
def execDrainOk (s : State) : Out :=
  s.onSelected fun i =>
    match i.ctl with
    | .drain b =>
      match decodeBuf b with
      | .ok f rem => .next (s.setCtl i (.push b ⟨i.portId, f⟩ rem))
      | .tooShort _ | .checksumMismatch _ => .refused .notSelected
    | .poll _ | .read _ | .push _ _ _ | .term | .faulted _ => .refused .notSelected

/-- PUSH.COMPLETE (R172). -/
def execPushComplete (s : State) : Out :=
  s.onSelected fun i =>
    match i.ctl, s.room with
    | .push _ q rem, true => .next (s.handOff i q rem)
    | _, _ => .refused .notSelected

/-- PUSH.BLOCKED (R173): the sink is full, nothing changes. -/
def execPushBlocked (s : State) : Out :=
  s.onSelected fun i =>
    match i.ctl, s.room with
    | .push _ _ _, false => .next s
    | _, _ => .refused .notSelected

/-- TERM.HALT (R174): no change, ever. -/
def execTermHalt (s : State) : Out :=
  s.onSelected fun i =>
    match i.ctl with
    | .term => .next s
    | .poll _ | .read _ | .drain _ | .push _ _ _ | .faulted _ => .refused .notSelected

end Sys2Proof.Machine
end

