-- ==== Sys2Proof/Machine/Dispatch.lean ====
section
/-! DEFINITION. From an instruction to its meaning, one arm per row of spec/opcode_table.json. -/

namespace Sys2Proof.Machine

def exec (i : Instr) (s : State) : Host.Outcome State Fault Refusal :=
  match i with
  | .frameFixed8_00_03 fn => Sys2Proof.Machine.execFrameFixed8_00_03 fn s
  | .frameFixed8_04_05 fn => Sys2Proof.Machine.execFrameFixed8_04_05 fn s
  | .frameVar_06_07 fn => Sys2Proof.Machine.execFrameVar_06_07 fn s
  | .frameVar_08_0F fn => Sys2Proof.Machine.execFrameVar_08_0F fn s
  | .frameVar_10_1F fn => Sys2Proof.Machine.execFrameVar_10_1F fn s
  | .frameVar_20_3F fn => Sys2Proof.Machine.execFrameVar_20_3F fn s
  | .frameVar_40_7F fn => Sys2Proof.Machine.execFrameVar_40_7F fn s
  | .frameVar_80_FF fn => Sys2Proof.Machine.execFrameVar_80_FF fn s
  | .crc16 => Sys2Proof.Machine.execCrc16 s
  | .crcCheck => Sys2Proof.Machine.execCrcCheck s
  | .decode => Sys2Proof.Machine.execDecode s
  | .encode => Sys2Proof.Machine.execEncode s
  | .setException => Sys2Proof.Machine.execSetException s
  | .copy => Sys2Proof.Machine.execCopy s
  | .getFunction => Sys2Proof.Machine.execGetFunction s
  | .getData => Sys2Proof.Machine.execGetData s
  | .setData => Sys2Proof.Machine.execSetData s
  | .crcInit => Sys2Proof.Machine.execCrcInit s
  | .crcByte => Sys2Proof.Machine.execCrcByte s
  | .crcBit => Sys2Proof.Machine.execCrcBit s
  | .pollShutdown => Sys2Proof.Machine.execPollShutdown s
  | .pollContinue => Sys2Proof.Machine.execPollContinue s
  | .rxData => Sys2Proof.Machine.execRxData s
  | .rxZero => Sys2Proof.Machine.execRxZero s
  | .rxTimeout => Sys2Proof.Machine.execRxTimeout s
  | .rxFatal => Sys2Proof.Machine.execRxFatal s
  | .rxEos => Sys2Proof.Machine.execRxEos s
  | .drainOk => Sys2Proof.Machine.execDrainOk s
  | .drainTooShort => Sys2Proof.Machine.execDrainTooShort s
  | .drainBadCrc => Sys2Proof.Machine.execDrainBadCrc s
  | .pushComplete => Sys2Proof.Machine.execPushComplete s
  | .pushBlocked => Sys2Proof.Machine.execPushBlocked s
  | .termHalt => Sys2Proof.Machine.execTermHalt s

end Sys2Proof.Machine
end

