-- ==== Sys2Proof/WellFormed.lean ====
section
/-! DEFINITION. When an instruction, a set of parameters and a move are well-formed: the function byte of a FRAME row
lies in the row's range (R84); the parameters respect R6; a move is one the agents have (R115, R212, D32). -/

namespace Sys2Proof

/-- The function byte carried by a FRAME row matches that row's mask and match (R84). Every other row has no field. -/
def Instr.wf : Instr → Bool
  | .frameFixed8_00_03 fn => fn &&& 0xFC#8 == 0x00#8
  | .frameFixed8_04_05 fn => fn &&& 0xFE#8 == 0x04#8
  | .frameVar_06_07 fn => fn &&& 0xFE#8 == 0x06#8
  | .frameVar_08_0F fn => fn &&& 0xF8#8 == 0x08#8
  | .frameVar_10_1F fn => fn &&& 0xF0#8 == 0x10#8
  | .frameVar_20_3F fn => fn &&& 0xE0#8 == 0x20#8
  | .frameVar_40_7F fn => fn &&& 0xC0#8 == 0x40#8
  | .frameVar_80_FF fn => fn &&& 0x80#8 == 0x80#8
  | .crc16 | .crcCheck | .decode | .encode | .setException | .copy | .getFunction | .getData | .setData
  | .crcInit | .crcByte | .crcBit
  | .pollShutdown | .pollContinue | .rxData | .rxZero | .rxTimeout | .rxFatal | .rxEos
  | .drainOk | .drainTooShort | .drainBadCrc | .pushComplete | .pushBlocked | .termHalt => true

/-- A length respects a bound that may be absent. -/
def withinBound (bound : Option Nat) (n : Nat) : Bool :=
  match bound with
  | none => true
  | some b => n ≤ b

/-- SINK_CAP is at least 1, and READ_MAX at least 1 where it is finite (R6). -/
def Params.wf (p : Params) : Bool :=
  decide (1 ≤ p.sinkCap) && (match p.readMax with | none => true | some m => decide (1 ≤ m))

/-- The port delivers at most READ_MAX bytes (R212). -/
def ReadResult.wf (p : Params) : ReadResult → Bool
  | .ok bytes => withinBound p.readMax bytes.length
  | .timeout | .fatal | .eos => true

/-- The operands of a codec call are values its operation has: CRC.CHECK needs 2 bytes (R115), and codes 0xC to 0xF name
no operation (R94). Data of any length is an operand (R135, R145). -/
def callWf (op : BitVec 4) (a : Args) : Bool :=
  match op.toNat with
  | 0x1 => decide (2 ≤ a.bytes.length)
  | n => decide (n ≤ 0xB)

/-- A move names an instance that exists and carries values its agent may supply; `nports` is NPORTS. Whether the move
is possible in a given state (a read is outstanding, SINK is not empty, the port is free) is not syntax. -/
def Move.wf (p : Params) (nports : Nat) : Move → Bool
  | .run q => decide (q < nports)
  | .rx q r => decide (q < nports) && r.wf p
  | .pop => true
  | .shutdown q _ => decide (q < nports)
  | .create q => decide (q < nports)
  | .call op a => callWf op a
  | .parse _ => true

end Sys2Proof
end

