-- ==== Sys2Proof/Decode.lean ====
section
/-! DEFINITION. From a code word to an instruction, total, rejecting by name, and back. The tables are the spec's own:
R84 for the function byte, R94 for OP, R95 for SEL. The block's other decoder, DECODE of a wire frame, is an operation
of the machine and stands in Machine/Codec.lean. -/

namespace Sys2Proof

/-- Why a code word is no instruction. -/
inductive Reject where
  /-- An OP code 0xC to 0xF (R94: refused). -/
  | reservedOp
  /-- A SEL word matching no row: PHASE 5 to 7 or ERR 3, which never occur (R95, I16). -/
  | noSelRow
  /-- The bytes are not one code word of the format: a wrong number of bytes, or bits set above the code. -/
  | badBytes
deriving DecidableEq, Repr

/-- The FRAME row a function byte selects (R84). The eight patterns partition the 256 values, so there is no rejection. -/
def decodeFn (fn : Byte) : Instr :=
  if fn &&& 0xFC#8 == 0x00#8 then .frameFixed8_00_03 fn
  else if fn &&& 0xFE#8 == 0x04#8 then .frameFixed8_04_05 fn
  else if fn &&& 0xFE#8 == 0x06#8 then .frameVar_06_07 fn
  else if fn &&& 0xF8#8 == 0x08#8 then .frameVar_08_0F fn
  else if fn &&& 0xF0#8 == 0x10#8 then .frameVar_10_1F fn
  else if fn &&& 0xE0#8 == 0x20#8 then .frameVar_20_3F fn
  else if fn &&& 0xC0#8 == 0x40#8 then .frameVar_40_7F fn
  else .frameVar_80_FF fn

/-- One row of the OP or SEL table: match and mask on a word of w bits. -/
structure Row (w : Nat) where
  mask  : BitVec w
  value : BitVec w
  instr : Instr
deriving DecidableEq, Repr

/-- A word is in a row when its bits under the mask are the row's match. -/
def Row.hits {w : Nat} (r : Row w) (x : BitVec w) : Bool := x &&& r.mask == r.value

/-- The OP table (R94). -/
def opRows : List (Row 4) :=
  [⟨0xF#4, 0x0#4, .crc16⟩, ⟨0xF#4, 0x1#4, .crcCheck⟩, ⟨0xF#4, 0x2#4, .decode⟩, ⟨0xF#4, 0x3#4, .encode⟩,
   ⟨0xF#4, 0x4#4, .setException⟩, ⟨0xF#4, 0x5#4, .copy⟩, ⟨0xF#4, 0x6#4, .getFunction⟩, ⟨0xF#4, 0x7#4, .getData⟩,
   ⟨0xF#4, 0x8#4, .setData⟩, ⟨0xF#4, 0x9#4, .crcInit⟩, ⟨0xF#4, 0xA#4, .crcByte⟩, ⟨0xF#4, 0xB#4, .crcBit⟩]

/-- The SEL table (R95). -/
def selRows : List (Row 10) :=
  [⟨0x3C0#10, 0x040#10, .pollShutdown⟩, ⟨0x3C0#10, 0x000#10, .pollContinue⟩,
   ⟨0x3B8#10, 0x088#10, .rxData⟩, ⟨0x3B8#10, 0x080#10, .rxZero⟩,
   ⟨0x3B0#10, 0x090#10, .rxTimeout⟩, ⟨0x3B0#10, 0x0A0#10, .rxFatal⟩, ⟨0x3B0#10, 0x0B0#10, .rxEos⟩,
   ⟨0x386#10, 0x100#10, .drainOk⟩, ⟨0x386#10, 0x102#10, .drainTooShort⟩, ⟨0x386#10, 0x104#10, .drainBadCrc⟩,
   ⟨0x381#10, 0x181#10, .pushComplete⟩, ⟨0x381#10, 0x180#10, .pushBlocked⟩,
   ⟨0x380#10, 0x200#10, .termHalt⟩]

/-- The instruction of the row a word is in. -/
def findRow {w : Nat} (rows : List (Row w)) (x : BitVec w) : Option Instr :=
  (rows.find? (·.hits x)).map Row.instr

/-- The instruction a code word stands for (R96). -/
def decodeCode : Code → Except Reject Instr
  | .frame fn => .ok (decodeFn fn)
  | .op c =>
    match findRow opRows c with
    | some i => .ok i
    | none => .error .reservedOp
  | .sel w =>
    match findRow selRows w with
    | some i => .ok i
    | none => .error .noSelRow

/-- A code word laid out as bytes, the low byte first: one byte for FRAME, one byte for OP with its upper half zero,
two bytes for SEL with the upper six bits zero. DESIGN CHOICE, log entry 16. -/
def Code.bytes : Code → List Byte
  | .frame fn => [fn]
  | .op c => [c.setWidth 8]
  | .sel w => [w.setWidth 8, (w >>> 8).setWidth 8]

/-- The code word the bytes are, in a given format. -/
def Code.ofBytes : Format → List Byte → Except Reject Code
  | .frame, [b] => .ok (.frame b)
  | .op, [b] => if b.toNat < 16 then .ok (.op (b.setWidth 4)) else .error .badBytes
  | .sel, [lo, hi] =>
    if hi.toNat < 4 then .ok (.sel (lo.setWidth 10 ||| (hi.setWidth 10 <<< 8))) else .error .badBytes
  | .frame, _ => .error .badBytes
  | .op, _ => .error .badBytes
  | .sel, _ => .error .badBytes

/-- Decoding bytes of one format: total, rejecting by name. -/
def decodeBytes (f : Format) (bytes : List Byte) : Except Reject Instr :=
  match Code.ofBytes f bytes with
  | .ok c => decodeCode c
  | .error r => .error r

/-- The code word of an instruction: the function byte of a FRAME row, the code of an OP row (R94), the match of a SEL
row, whose bits outside the mask are written as 0 (as 95_test_vectors.md 2.6 writes them; log entry 16). -/
def encode : Instr → Code
  | .frameFixed8_00_03 fn | .frameFixed8_04_05 fn | .frameVar_06_07 fn | .frameVar_08_0F fn
  | .frameVar_10_1F fn | .frameVar_20_3F fn | .frameVar_40_7F fn | .frameVar_80_FF fn => .frame fn
  | .crc16 => .op 0x0#4
  | .crcCheck => .op 0x1#4
  | .decode => .op 0x2#4
  | .encode => .op 0x3#4
  | .setException => .op 0x4#4
  | .copy => .op 0x5#4
  | .getFunction => .op 0x6#4
  | .getData => .op 0x7#4
  | .setData => .op 0x8#4
  | .crcInit => .op 0x9#4
  | .crcByte => .op 0xA#4
  | .crcBit => .op 0xB#4
  | .pollShutdown => .sel 0x040#10
  | .pollContinue => .sel 0x000#10
  | .rxData => .sel 0x088#10
  | .rxZero => .sel 0x080#10
  | .rxTimeout => .sel 0x090#10
  | .rxFatal => .sel 0x0A0#10
  | .rxEos => .sel 0x0B0#10
  | .drainOk => .sel 0x100#10
  | .drainTooShort => .sel 0x102#10
  | .drainBadCrc => .sel 0x104#10
  | .pushComplete => .sel 0x181#10
  | .pushBlocked => .sel 0x180#10
  | .termHalt => .sel 0x200#10

/-- The format an instruction's code word has. -/
def Code.format : Code → Format
  | .frame _ => .frame
  | .op _ => .op
  | .sel _ => .sel

/-- The code word whose bits are w in a row of nbits bits. The number alone does not name the format: 4 bits are an OP
code, 9 to 16 bits a SEL word; an 8-bit word up to 0xB is read as an OP code in a whole byte, any other 8-bit word as a
function byte. DESIGN CHOICE, log entry 15. -/
def codeOfTable (nbits w : Nat) : Option Code :=
  if nbits ≤ 4 then
    if w < 16 then some (.op (BitVec.ofNat 4 w)) else none
  else if nbits ≤ 8 then
    if w ≤ 0xB then some (.op (BitVec.ofNat 4 w))
    else if w < 256 then some (.frame (BitVec.ofNat 8 w)) else none
  else if w < 1024 then some (.sel (BitVec.ofNat 10 w)) else none

/-- The host's probe: the instruction the decoder reads from a table word, laid out as bytes and decoded. -/
def decodeTableWord (nbits w : Nat) : Option Instr :=
  match codeOfTable nbits w with
  | none => none
  | some c =>
    match decodeBytes c.format c.bytes with
    | .ok i => some i
    | .error _ => none

end Sys2Proof
end

