-- ==== Sys2Proof/Machine/Environment.lean ====
section
/-! DEFINITION. The moves of the agents outside the block that change the state by themselves (R12, R14): the sink
consumer (R215) and the controller (R216). They are no instructions of the opcode table. -/

namespace Sys2Proof.Machine

/-- The consumer removes the head of SINK when it is not empty (R215). -/
def State.popSink (s : State) : Out :=
  match s.sink with
  | _ :: rest => .next { s with sink := rest }
  | [] => .refused .sinkEmpty

/-- The controller sets the SHUTDOWN level of instance p, at any time and in any phase (R31, R216). -/
def State.driveShutdown (s : State) (p : Nat) (level : Bool) : Out :=
  match s.insts[p]? with
  | some i => .next { s with insts := s.insts.set p { i with shutdown := level } }
  | none => .refused .noSuchInstance

/-- The controller creates a new instance on a port whose instance has terminated (R39, R174, R216): the reset values,
the same port, the SHUTDOWN level as the controller holds it. There is no warm reset of an instance that has not
terminated (R240). Log entry 17. -/
def State.createInstance (s : State) (p : Nat) : Out :=
  match s.insts[p]? with
  | some i =>
    match i.ctl with
    | .term => .next { s with insts := s.insts.set p { i with ctl := .poll [] } }
    | .poll _ | .read _ | .drain _ | .push _ _ _ | .faulted _ => .refused .portInUse
  | none => .refused .noSuchInstance

end Sys2Proof.Machine
end

