-- ==== Sys2Proof/Machine/Fetch.lean ====
section
/-! DEFINITION. How the next code word comes about. The block has no stored program (R67): an instance's next
transition is selected by the SEL word assembled from its state and inputs (R95), a codec operation by the OP code of
the call (R94), a frame's format by its function byte (R83). Which agent moves is the next entry of `env`, or a free
choice when `env` is empty (log entry 2). -/

namespace Sys2Proof.Machine

/-- What a move leads to: a code word to decode and run in a state, or an end of the step without one. -/
inductive Fetched where
  | code (c : Code) (s : State)
  | ends (o : Host.Outcome State Fault Refusal)
deriving Repr

/-- The next move of the agents and the state without it: the head of env, else the free choice (R37). -/
def State.nextMove (s : State) : Move × State :=
  match s.env with
  | m :: rest => (m, { s with env := rest })
  | [] => (Config.freeMove s.tick, { s with tick := s.tick + 1 })

/-- Instance p is the one whose transition is taken, and its port presents r (the subscript p of the rules; R93). -/
def State.select (s : State) (p : Nat) (r : Option ReadResult) : State := { s with cur := p, rx := r }

/-- Instance p is let run: in POLL, DRAIN, PUSH and TERM its SEL word is assembled; in READ it waits for its port
(R163) and after BufferOverflow it takes no further step (R66), so nothing changes. Log entry 11. -/
def State.fetchRun (s : State) (p : Nat) : Fetched :=
  match s.insts[p]? with
  | none => .ends (.refused .noSuchInstance)
  | some i =>
    match i.ctl with
    | .poll _ | .drain _ | .push _ _ _ | .term =>
      let s' := s.select p none
      .code (.sel (s'.selWord i)) s'
    | .read _ | .faulted _ => .ends (.next s)

/-- The port returns at most READ_MAX bytes (R212). -/
def chunkFits (readMax : Option Nat) : ReadResult → Bool
  | .ok bytes => fits readMax bytes.length
  | .timeout | .fatal | .eos => true

/-- The port of instance p completes its read: only a read that was issued, that is in READ (R163, R212, D28). -/
def State.fetchRx (s : State) (p : Nat) (r : ReadResult) : Fetched :=
  match s.insts[p]? with
  | none => .ends (.refused .noSuchInstance)
  | some i =>
    match i.ctl with
    | .read _ =>
      if chunkFits s.params.readMax r then
        let s' := s.select p (some r)
        .code (.sel (s'.selWord i)) s'
      else .ends (.refused .chunkTooLong)
    | .poll _ | .drain _ | .push _ _ _ | .term | .faulted _ => .ends (.refused .noReadPending)

/-- Load the operands of a codec call. -/
def State.withArgs (s : State) (a : Args) : State := { s with codec := { s.codec with args := a } }

/-- A buffer given to the frame parser: below 5 bytes the function byte is not read and DECODE itself answers (R51,
R131 line 1); else the function byte is the code word (R83, R84). Log entry 14. -/
def State.fetchParse (s : State) (buf : List Byte) : Fetched :=
  let s' := s.withArgs { s.codec.args with bytes := buf }
  if buf.length < minLen then .code (.op 0x2#4) s' else .code (.frame (byteAt buf 1)) s'

/-- What the next move leads to. -/
def State.fetch (s : State) : Fetched :=
  let (m, s') := s.nextMove
  match m with
  | .run p => s'.fetchRun p
  | .rx p r => s'.fetchRx p r
  | .pop => .ends s'.popSink
  | .shutdown p level => .ends (s'.driveShutdown p level)
  | .create p => .ends (s'.createInstance p)
  | .call op a => .code (.op op) (s'.withArgs a)
  | .parse buf => s'.fetchParse buf

/-- The refusal a rejected code word ends in. -/
def refusalOf : Reject → Refusal
  | .reservedOp => .reservedOp
  | .noSelRow => .noSelRow
  | .badBytes => .badBytes

/-- Operands of zeros, for the host's probe; two bytes, the least CRC.CHECK has (R115). -/
def zeroArgs : Args := ⟨[0x00#8, 0x00#8], ⟨0#8, 0#8, []⟩, 0#8⟩

/-- Set the first instance's registers, its SHUTDOWN input as needed, and the moves that come next; where there is no
instance, a fresh one. -/
def State.placeFirst (s : State) (f : Instance → Instance) (m : Move) : State :=
  match s.insts with
  | i :: rest => { s with insts := f i :: rest, env := m :: s.env }
  | [] => { s with insts := [f (Instance.fresh 0)], env := m :: s.env }

/-- BUF of an instance, [] where there is none. -/
def Instance.bufOrEmpty (i : Instance) : List Byte := i.ctl.buf.getD []

/-- A buffer on which DECODE gives the status with this code (V-D8, V-D12, V-D24 of 95_test_vectors.md). -/
def bufWithStatus (err : BitVec 2) : List Byte :=
  if err == 0#2 then [0xFF#8, 0xFF#8, 0xFF#8, 0x40#8, 0x40#8]
  else if err == 1#2 then []
  else [0x00#8, 0x06#8, 0x00#8, 0x00#8, 0x00#8]

/-- The read result with this RXS and NZ (R93). -/
def readResultOf (rxs : BitVec 2) (nz : Bool) : ReadResult :=
  if rxs == 0#2 then (if nz then .ok [0x00#8] else .ok [])
  else if rxs == 1#2 then .timeout
  else if rxs == 2#2 then .fatal
  else .eos

/-- A state whose sink has room, or has none: SINK and SINK_CAP changed only where they must be. -/
def State.withRoom (s : State) (room : Bool) : State :=
  if s.room == room then s
  else if room then { s with sink := [], params := { s.params with sinkCap := s.params.sinkCap + 1 } }
  else
    let sink := if s.sink.isEmpty then [default] else s.sink
    { s with sink := sink, params := { s.params with sinkCap := sink.length } }

/-- A state whose next step assembles a SEL word in the same row as w: PHASE and the inputs that phase looks at are
placed, nothing else. A word of no row leaves the state as it is. Log entry 3. -/
def State.placeSel (s : State) (w : BitVec 10) : State :=
  match (w.extractLsb' 7 3).toNat with
  | 0 => s.placeFirst (fun i => { i with shutdown := w.getLsbD 6, ctl := .poll i.bufOrEmpty }) (.run 0)
  | 1 => s.placeFirst (fun i => { i with ctl := .read i.bufOrEmpty })
      (.rx 0 (readResultOf (w.extractLsb' 4 2) (w.getLsbD 3)))
  | 2 => s.placeFirst (fun i => { i with ctl := .drain (bufWithStatus (w.extractLsb' 1 2)) }) (.run 0)
  | 3 => (s.withRoom (w.getLsbD 0)).placeFirst
      (fun i => { i with ctl := .push i.bufOrEmpty ⟨i.portId, default⟩ [] }) (.run 0)
  | 4 => s.placeFirst (fun i => { i with ctl := .term }) (.run 0)
  | _ => s

/-- A state whose next step fetches this code word. -/
def State.placeCode (s : State) (c : Code) : State :=
  match c with
  | .op code => { s with env := .call code zeroArgs :: s.env }
  | .frame fn => { s with env := .parse [0#8, fn, 0#8, 0#8, 0#8, 0#8, 0#8, 0#8] :: s.env }
  | .sel w => s.placeSel w

/-- The table word of nbits bits placed where step fetches its next instruction. -/
def State.placeTableWord (s : State) (nbits w : Nat) : State :=
  match codeOfTable nbits w with
  | some c => s.placeCode c
  | none => s

end Sys2Proof.Machine
end

