-- ==== Sys2Proof/Machine/Step.lean ====
section
/-! DEFINITION. One step of the system (R12): the next move is fetched; the code word it leads to, if any, is decoded
and run. -/

namespace Sys2Proof.Machine

/-- One step: three outcomes. -/
def step (s : State) : Host.Outcome State Fault Refusal :=
  match s.fetch with
  | .ends o => o
  | .code c s' =>
    match decodeCode c with
    | .ok i => exec i s'
    | .error r => .refused (refusalOf r)

/-- The host's probe: s with the table word w of nbits bits placed where step fetches its next instruction. -/
def State.withFetchWord (s : State) (nbits w : Nat) : State := s.placeTableWord nbits w

end Sys2Proof.Machine
end

