-- ==== Sys2Proof/Safety.lean ====
section
/-! DEFINITION. The terms claims about the machine use: codec-valid frames (R146), the big-step drain (R176), the
invariant of the state, which agent a move belongs to, the end of a run (R256), and small combinators over outcomes. -/

namespace Sys2Proof.Machine

/-- Codec-valid (R146): function ≤ 5 with 4 data bytes, or function ≥ 6 with at least 1. -/
def codecValid (f : Frame) : Bool :=
  if f.function.toNat ≤ 5 then decide (f.data.length = 4) else decide (1 ≤ f.data.length)

/-- `drain(b)` of R176 with fuel: the frames a buffer gives, in order, and what is left of it. -/
def drainWith : Nat → List Byte → List Frame × List Byte
  | 0, b => ([], b)
  | n + 1, b =>
    match decodeBuf b with
    | .tooShort _ => ([], b)
    | .checksumMismatch _ => ([], [])
    | .ok f rem => (f :: (drainWith n rem).1, (drainWith n rem).2)

/-- `drain(b)` of R176: every success shortens the buffer, so its length is fuel enough. -/
def drain (b : List Byte) : List Frame × List Byte := drainWith (b.length + 1) b

/-- The OP code of an instruction is c, both ways (R94). -/
def isOpRow (i : Instr) (c : BitVec 4) : Prop := encode i = .op c ∧ decodeCode (.op c) = .ok i

/-- The SEL words of an instruction are exactly those whose bits under mask are value; it is encoded as value (R95). -/
def isSelRow (i : Instr) (mask value : BitVec 10) : Prop :=
  encode i = .sel value ∧ ∀ w : BitVec 10, decodeCode (.sel w) = .ok i ↔ w &&& mask = value

/-- The 13 transitions of an instance (R95). -/
def transitions : List Instr :=
  [.pollShutdown, .pollContinue, .rxData, .rxZero, .rxTimeout, .rxFatal, .rxEos, .drainOk, .drainTooShort, .drainBadCrc,
   .pushComplete, .pushBlocked, .termHalt]

/-- The operations of the codec: the OP and FRAME rows (R96). -/
def isCodec (i : Instr) : Bool := !transitions.contains i

/-- What holds of an instance's registers between steps. In POLL and READ, and so after BufferOverflow, BUF is too short
to decode (R175); in DRAIN it is at most 7 bytes and one chunk (R66); in PUSH, PEND and REM are what DECODE gave and the
Request carries the instance's own port (R26, R171, R222); BUF is never above BUF_CAP (R24). -/
def Instance.ok (p : Params) (i : Instance) : Bool :=
  match i.ctl with
  | .poll b | .read b | .faulted b => decide (decodeBuf b = .tooShort b) && fits p.bufCap b.length
  | .drain b => fits (p.readMax.map (7 + ·)) b.length && fits p.bufCap b.length
  | .push b q r =>
    decide (decodeBuf b = .ok q.frame r) && decide (q.port = i.portId) && fits (p.readMax.map (7 + ·)) b.length &&
      fits p.bufCap b.length
  | .term => true

/-- The invariant: the parameters respect R6; there is a port and port identities are distinct (R32); SINK holds at
most SINK_CAP Requests (R34), each with a codec-valid frame (R177) and the identity of a port (R222); every instance's
registers are as `Instance.ok` says. -/
structure State.Inv (s : State) : Prop where
  params     : s.params.wf = true
  portsExist : s.insts ≠ []
  portsApart : (s.insts.map Instance.portId).Nodup
  sinkFits   : s.sink.length ≤ s.params.sinkCap
  sinkValid  : ∀ q ∈ s.sink, codecValid q.frame = true
  sinkPorts  : ∀ q ∈ s.sink, q.port ∈ s.insts.map Instance.portId
  instsOk    : ∀ i ∈ s.insts, i.ok s.params = true

/-- The instance a move acts on, none for the sink consumer and codec callers. -/
def moveTarget : Move → Option Nat
  | .run p | .rx p _ | .shutdown p _ | .create p => some p
  | .pop | .call _ _ | .parse _ => none

/-- The move is one its agent can make in this state (R212, R215, R216), beside being well-formed. `run` is always
possible: where the instance has no step of its own it changes nothing (log entry 11). -/
def State.possible (s : State) : Move → Prop
  | .rx p _ => ∃ i b, s.insts[p]? = some i ∧ i.ctl = .read b
  | .pop => s.sink ≠ []
  | .create p => ∃ i, s.insts[p]? = some i ∧ i.ctl = .term
  | .run _ | .shutdown _ _ | .call _ _ | .parse _ => True

/-- An instance's run is over (R256). -/
def Instance.final (i : Instance) : Bool := i.ctl == .term

/-- The SHUTDOWN level of instance p set to a value. -/
def State.withShutdown (s : State) (p : Nat) (level : Bool) : State :=
  { s with insts := s.insts.modify p fun i => { i with shutdown := level } }

/-- An outcome with its next state changed. -/
def mapNext (f : State → State) : Out → Out
  | .next s => .next (f s)
  | .fault r => .fault r
  | .refused r => .refused r

/-- n steps of the system. -/
def steps : Nat → State → Out
  | 0, s => .next s
  | n + 1, s =>
    match step s with
    | .next s' => steps n s'
    | .fault r => .fault r
    | .refused r => .refused r

/-- An instruction executed n times. -/
def execTimes : Nat → Instr → State → Out
  | 0, _, s => .next s
  | n + 1, i, s =>
    match exec i s with
    | .next s' => execTimes n i s'
    | .fault r => .fault r
    | .refused r => .refused r

/-- CRC.BYTE executed once for each byte, in order (R114). -/
def crcBytesRun : List Byte → State → Out
  | [], s => .next s
  | b :: rest, s =>
    match exec .crcByte (s.withArgs { s.codec.args with byte := b }) with
    | .next s' => crcBytesRun rest s'
    | .fault r => .fault r
    | .refused r => .refused r

end Sys2Proof.Machine
end

