-- ==== Sys2Proof/Certificates/Slice0/Obligations.lean ====
section
/-! DEFINITION. The statements for the provers. Each docstring names the rules of spec/ it rests on; OBLIGATIONS.json
lists them. -/

open Sys2Proof Sys2Proof.Machine

/-! ### Reset and the invariant -/

/-- Reset (R39, R240): NPORTS instances, at least one, with distinct port identities, each in POLL with BUF = [],
PEND = none, REM = []; SINK = []; the parameters are well-formed. The value 0 of SHUTDOWN and 0xFFFF of CRC are the
model's choices (log entries 5 and 6). -/
def Obligations.ResetLeavesEveryInstanceInPoll : Prop :=
  State.reset.insts.length = Config.nports ∧ 1 ≤ Config.nports ∧
  (State.reset.insts.map Instance.portId).Nodup ∧
  (∀ i ∈ State.reset.insts, i.ctl.phase = .poll ∧ i.ctl.buf = some [] ∧ i.ctl.pend = none ∧ i.ctl.rem = [] ∧
    i.shutdown = false) ∧
  State.reset.sink = [] ∧ State.reset.codec.crc = 0xFFFF#16 ∧ State.reset.params.wf = true

/-- The invariant holds at reset. -/
def Obligations.ResetMeetsInvariant : Prop := State.reset.Inv

/-- Every step keeps the invariant, from any state that meets it: resting buffers never decodable (R175), DRAIN buffers
at most 7 bytes and a chunk (R66), PEND and REM what DECODE gave (R171), Requests under their own port (R222), SINK
within SINK_CAP (R34) and only codec-valid frames in it (R177). -/
def Obligations.StepKeepsInvariant : Prop := ∀ s t : State, s.Inv → step s = .next t → t.Inv

/-- The bound of R66: in POLL and READ BUF has at most 7 bytes, at most 4 unless its function byte is ≤ 5, and DECODE of
it is TooShort (R175); in DRAIN and PUSH it has at most 7 + READ_MAX. -/
def Obligations.BufferBounds : Prop :=
  ∀ (s : State) (i : Instance), s.Inv → i ∈ s.insts →
    (∀ b, i.ctl = .poll b ∨ i.ctl = .read b →
      decodeBuf b = .tooShort b ∧ b.length ≤ 7 ∧ (5 ≤ b.length → (b.getD 1 0#8).toNat ≤ 5)) ∧
    (∀ b m, s.params.readMax = some m → (i.ctl = .drain b ∨ ∃ q r, i.ctl = .push b q r) → b.length ≤ 7 + m)

/-- R66: with BUF_CAP ≥ 7 + READ_MAX no step marks an instance with BufferOverflow. -/
def Obligations.LargeBufferNeverOverflows : Prop :=
  ∀ (s t : State) (cap m : Nat), s.Inv → s.params.bufCap = some cap → s.params.readMax = some m → 7 + m ≤ cap →
    (∀ i ∈ s.insts, ∀ b, i.ctl ≠ .faulted b) → step s = .next t → ∀ i ∈ t.insts, ∀ b, i.ctl ≠ .faulted b

/-! ### The CRC family -/

/-- CRC.INIT (R111): CRC <- 0xFFFF whatever it was; nothing else changes. -/
def Obligations.CrcInitLoadsInitialValue : Prop :=
  isOpRow .crcInit 0x9#4 ∧
  ∀ s : State, exec .crcInit s = .next { s with codec := { s.codec with crc := 0xFFFF#16 } }

/-- CRC.BIT (R112): the test is on bit 0 before the shift, 0 enters at bit 15, the XOR is applied to the shifted value;
bit 15 of the result is the tested bit; nothing but CRC changes; the rule's corner cases and example. -/
def Obligations.CrcBitShiftsAndXors : Prop :=
  isOpRow .crcBit 0xB#4 ∧
  (∀ s : State, exec .crcBit s = .next { s with codec := { s.codec with
      crc := if s.codec.crc.getLsbD 0 then (s.codec.crc >>> 1) ^^^ 0xA001#16 else s.codec.crc >>> 1 } }) ∧
  (∀ s t : State, exec .crcBit s = .next t → t.codec.crc.getLsbD 15 = s.codec.crc.getLsbD 0) ∧
  (∀ s t : State, exec .crcBit s = .next t →
    (s.codec.crc = 0x0000#16 → t.codec.crc = 0x0000#16) ∧ (s.codec.crc = 0x0001#16 → t.codec.crc = 0xA001#16) ∧
    (s.codec.crc = 0xFFFF#16 → t.codec.crc = 0xDFFE#16) ∧ (s.codec.crc = 0xFFFE#16 → t.codec.crc = 0x7FFF#16))

/-- CRC.BYTE (R113): the byte, widened with zeros, is XORed in first, which leaves CRC[15:8] as it was; then CRC.BIT
eight times; it completes in every state and changes only CRC; the rule's corner case and example. -/
def Obligations.CrcByteIsXorThenEightBits : Prop :=
  isOpRow .crcByte 0xA#4 ∧
  (∀ s : State, exec .crcByte s = execTimes 8 .crcBit { s with codec := { s.codec with
      crc := s.codec.crc ^^^ s.codec.args.byte.setWidth 16 } }) ∧
  (∀ (c : Word) (b : Byte), (c ^^^ b.setWidth 16).extractLsb' 8 8 = c.extractLsb' 8 8) ∧
  (∀ s : State, ∃ c, exec .crcByte s = .next { s with codec := { s.codec with crc := c } }) ∧
  (∀ s t : State, exec .crcByte s = .next t → s.codec.crc = 0xFFFF#16 →
    (s.codec.args.byte = 0x00#8 → t.codec.crc = 0x40BF#16) ∧ (s.codec.args.byte = 0x01#8 → t.codec.crc = 0x807E#16))

/-- CRC16 (R114): in every state the call returns the value CRC.INIT followed by one CRC.BYTE per byte, from offset 0
upward, leaves in CRC; nothing but the result changes (R21); the rule's corner cases and examples. -/
def Obligations.Crc16IsInitThenBytes : Prop :=
  isOpRow .crc16 0x0#4 ∧
  (∀ s : State, ∃ s₁ s₂, exec .crcInit s = .next s₁ ∧ crcBytesRun s.codec.args.bytes s₁ = .next s₂ ∧
    exec .crc16 s = .next { s with codec := { s.codec with result := .word s₂.codec.crc } }) ∧
  crc16 [] = 0xFFFF#16 ∧ crc16 [0x00#8] = 0x40BF#16 ∧ crc16 [0x01#8, 0x03#8] = 0x2140#16 ∧
  crc16 [0x31#8, 0x32#8, 0x33#8, 0x34#8, 0x35#8, 0x36#8, 0x37#8, 0x38#8, 0x39#8] = 0x4B37#16 ∧
  crc16 [0x01#8, 0x03#8, 0x00#8, 0x00#8, 0x00#8, 0x0A#8] = 0xCDC5#16 ∧
  ∀ (s : State), exec .crc16 s = .next { s with codec := { s.codec with result := .word (crc16 s.codec.args.bytes) } }

/-- CRC.CHECK (R115): for N ≥ 2 bytes the result is whether the last two, the lower offset the low byte, equal the
CRC16 of all that precede them; for N < 2 it is refused; nothing but the result changes. -/
def Obligations.CrcCheckComparesLastTwoBytes : Prop :=
  isOpRow .crcCheck 0x1#4 ∧
  (∀ (s : State) (m : List Byte) (lo hi : Byte), s.codec.args.bytes = m ++ [lo, hi] →
    exec .crcCheck s = .next { s with codec := { s.codec with
      result := .flag (decide (lo.setWidth 16 ||| (hi.setWidth 16 <<< 8) = crc16 m)) } }) ∧
  (∀ s : State, s.codec.args.bytes.length < 2 → exec .crcCheck s = .refused .crcCheckTooShort)

/-- Residue (R117): running CRC16 over the whole candidate, checksum included, and testing for zero gives the same
verdict as CRC.CHECK; in particular CRC16 of a message followed by its own checksum is 0. -/
def Obligations.ZeroResidueIsTheSameVerdict : Prop :=
  (∀ m : List Byte, crc16 (m ++ [(crc16 m).extractLsb' 0 8, (crc16 m).extractLsb' 8 8]) = 0x0000#16) ∧
  (∀ s : State, 2 ≤ s.codec.args.bytes.length →
    exec .crcCheck s = .next { s with codec := { s.codec with
      result := .flag (decide (crc16 s.codec.args.bytes = 0x0000#16)) } })

/-! ### The frame codec -/

/-- DECODE by case (R132): the table of L, function byte and checksum, in every state; nothing but the result changes.
The fields are those of R86, the checksum comparison that of R115. -/
def Obligations.DecodeByCase : Prop :=
  isOpRow .decode 0x2#4 ∧
  ∀ s : State, ∃ d, exec .decode s = .next { s with codec := { s.codec with result := .decoded d } } ∧
    ∀ buf, s.codec.args.bytes = buf →
      (buf.length < 5 → d = .tooShort buf) ∧
      (5 ≤ buf.length → buf.length < 8 → (buf.getD 1 0#8).toNat ≤ 5 → d = .tooShort buf) ∧
      (8 ≤ buf.length → (buf.getD 1 0#8).toNat ≤ 5 → crcCheck (buf.take 8) = true →
        d = .ok ⟨buf.getD 0 0#8, buf.getD 1 0#8, (buf.drop 2).take 4⟩ (buf.drop 8)) ∧
      (8 ≤ buf.length → (buf.getD 1 0#8).toNat ≤ 5 → crcCheck (buf.take 8) = false → d = .checksumMismatch []) ∧
      (5 ≤ buf.length → 6 ≤ (buf.getD 1 0#8).toNat → crcCheck buf = true →
        d = .ok ⟨buf.getD 0 0#8, buf.getD 1 0#8, (buf.drop 2).take (buf.length - 4)⟩ []) ∧
      (5 ≤ buf.length → 6 ≤ (buf.getD 1 0#8).toNat → crcCheck buf = false → d = .checksumMismatch [])

/-- Every FRAME row gives DECODE's answer (R84, R131): on a buffer of at least 5 bytes the row its function byte selects
completes with exactly what the operation DECODE does, and no other row of that byte is well-formed. -/
def Obligations.FrameRowsAgreeWithDecode : Prop :=
  (∀ (s : State) (fn : Byte), 5 ≤ s.codec.args.bytes.length → s.codec.args.bytes.getD 1 0#8 = fn →
    ∀ i ∈ [Instr.frameFixed8_00_03 fn, .frameFixed8_04_05 fn, .frameVar_06_07 fn, .frameVar_08_0F fn,
        .frameVar_10_1F fn, .frameVar_20_3F fn, .frameVar_40_7F fn, .frameVar_80_FF fn],
      i.wf = true →
        exec i s = .next { s with codec := { s.codec with result := .decoded (decodeBuf s.codec.args.bytes) } } ∧
        exec i s = exec .decode s ∧ decodeCode (.frame fn) = .ok i)

/-- Which row a function byte selects (R84): the comparison is unsigned and on the whole byte, so 0 to 5 are FIXED8, all
else is VAR, exception responses included. -/
def Obligations.FunctionByteMap : Prop :=
  ∀ fn : Byte,
    decodeCode (.frame fn) = .ok (
      if fn.toNat ≤ 3 then .frameFixed8_00_03 fn
      else if fn.toNat ≤ 5 then .frameFixed8_04_05 fn
      else if fn.toNat ≤ 7 then .frameVar_06_07 fn
      else if fn.toNat ≤ 15 then .frameVar_08_0F fn
      else if fn.toNat ≤ 31 then .frameVar_10_1F fn
      else if fn.toNat ≤ 63 then .frameVar_20_3F fn
      else if fn.toNat ≤ 127 then .frameVar_40_7F fn
      else .frameVar_80_FF fn)

/-- ENCODE (R135): address, function, data, then the CRC16 of these, low byte first; d + 4 bytes, for every
frame DATA_MAX admits; beyond a finite DATA_MAX it completes all the same, returning bytes the model leaves free (the
model's choice, log entry 22); nothing but the result changes. -/
def Obligations.EncodeAppendsLittleEndianCrc : Prop :=
  isOpRow .encode 0x3#4 ∧
  (∀ (s : State) (a f : Byte) (d : List Byte), s.codec.args.frame = ⟨a, f, d⟩ →
    (∀ m, s.params.dataMax = some m → d.length ≤ m) →
    exec .encode s = .next { s with codec := { s.codec with result := .bytes (a :: f :: d ++
      [(crc16 (a :: f :: d)).extractLsb' 0 8, (crc16 (a :: f :: d)).extractLsb' 8 8]) } } ∧
    (encodeFrame ⟨a, f, d⟩).length = d.length + 4) ∧
  (∀ (s : State) (m : Nat), s.params.dataMax = some m → m < s.codec.args.frame.data.length →
    ∃ out : List Byte, exec .encode s = .next { s with codec := { s.codec with result := .bytes out } })

/-- Checksum round trip (R146, R147): DECODE of what ENCODE returned is (Ok, F, []) exactly for the codec-valid frames,
function ≤ 5 with 4 data bytes or function ≥ 6 with at least 1. A Frame's data is within DATA_MAX (R22); beyond it what
ENCODE returns is free (log entry 22). -/
def Obligations.CodecRoundTripExactlyForCodecValid : Prop :=
  ∀ (s s₁ s₂ : State) (f : Frame) (out : List Byte) (d : DecodeResult),
    (∀ m, s.params.dataMax = some m → f.data.length ≤ m) →
    exec .encode (s.withArgs { s.codec.args with frame := f }) = .next s₁ → s₁.codec.result = .bytes out →
    exec .decode (s₁.withArgs { s₁.codec.args with bytes := out }) = .next s₂ → s₂.codec.result = .decoded d →
    (d = .ok f [] ↔ (f.function.toNat ≤ 5 ∧ f.data.length = 4) ∨ (6 ≤ f.function.toNat ∧ 1 ≤ f.data.length))

/-- ENCODE undoes DECODE (R81, R86, R131): a buffer that decodes is the encoding of the frame followed by the remainder,
and the frame is codec-valid, so its data is never empty (R144); the remainder is empty in the variable class. -/
def Obligations.DecodedBufferIsEncodingAndRemainder : Prop :=
  ∀ (buf rem : List Byte) (f : Frame), decodeBuf buf = .ok f rem →
    buf = encodeFrame f ++ rem ∧ codecValid f = true ∧ f.data ≠ [] ∧ (6 ≤ f.function.toNat → rem = []) ∧
    rem.length + 5 ≤ buf.length

/-- Trailing bytes (R148): in the fixed-length class a successful DECODE is unchanged by bytes appended to the buffer,
which go to the remainder; in the variable class appended bytes destroy it: the frame is not decoded again. -/
def Obligations.TrailingBytesOnlyInFixedClass : Prop :=
  ∀ (buf rem : List Byte) (f : Frame), decodeBuf buf = .ok f rem →
    (f.function.toNat ≤ 5 → ∀ t, decodeBuf (buf ++ t) = .ok f (rem ++ t)) ∧
    (6 ≤ f.function.toNat → ∀ t, t ≠ [] → ∀ r, decodeBuf (buf ++ t) ≠ .ok f r)

/-- Fixed-length split (R149): 16 bytes that are two consecutive 8-byte fixed-length frames with valid checksums decode
to the first frame and the second's bytes, and those decode to the second frame. -/
def Obligations.TwoFixedFramesSplit : Prop :=
  ∀ a b : List Byte, a.length = 8 → b.length = 8 → (a.getD 1 0#8).toNat ≤ 5 → (b.getD 1 0#8).toNat ≤ 5 →
    crcCheck a = true → crcCheck b = true →
    decodeBuf (a ++ b) = .ok ⟨a.getD 0 0#8, a.getD 1 0#8, (a.drop 2).take 4⟩ b ∧
    decodeBuf b = .ok ⟨b.getD 0 0#8, b.getD 1 0#8, (b.drop 2).take 4⟩ []

/-- Too-short retention (R150): length below 5, or below 8 with function ≤ 5, is TooShort with the buffer itself; and
these are the only TooShort buffers (R206). -/
def Obligations.TooShortKeepsTheBuffer : Prop :=
  ∀ buf rem : List Byte,
    decodeBuf buf = .tooShort rem ↔
      rem = buf ∧ (buf.length < 5 ∨ (buf.length < 8 ∧ (buf.getD 1 0#8).toNat ≤ 5))

/-- Checksum-failure wipe (R151): a buffer long enough to be judged, whose candidate fails CRC.CHECK, is
ChecksumMismatch with an empty remainder, whatever follows the candidate; a shorter buffer is TooShort whatever its
bytes. -/
def Obligations.CorruptChecksumEmptiesRemainder : Prop :=
  (∀ buf : List Byte, buf.length < 5 ∨ (buf.length < 8 ∧ (buf.getD 1 0#8).toNat ≤ 5) → decodeBuf buf = .tooShort buf) ∧
  ∀ buf : List Byte, 5 ≤ buf.length →
    ((buf.getD 1 0#8).toNat ≤ 5 → 8 ≤ buf.length → crcCheck (buf.take 8) = false → decodeBuf buf = .checksumMismatch []) ∧
    (6 ≤ (buf.getD 1 0#8).toNat → crcCheck buf = false → decodeBuf buf = .checksumMismatch [])

/-- Exception encoding (R140, R152): the function byte ORed with 0x80, the data exactly the code, the address unchanged;
idempotent on bit 7; the encoding is 5 bytes and decodes back; nothing but the result changes. -/
def Obligations.SetExceptionSetsBitSevenAndCode : Prop :=
  isOpRow .setException 0x4#4 ∧
  ∀ s : State, ∃ g : Frame,
    exec .setException s = .next { s with codec := { s.codec with result := .frame g } } ∧
    g.address = s.codec.args.frame.address ∧ g.function = s.codec.args.frame.function ||| 0x80#8 ∧
    g.data = [s.codec.args.byte] ∧
    (s.codec.args.frame.function.getLsbD 7 = true → g.function = s.codec.args.frame.function) ∧
    (encodeFrame g).length = 5 ∧ decodeBuf (encodeFrame g) = .ok g []

/-- COPY (R142): a frame equal field by field; nothing but the result changes. -/
def Obligations.CopyReturnsEqualFrame : Prop :=
  isOpRow .copy 0x5#4 ∧
  ∀ s : State, exec .copy s = .next { s with codec := { s.codec with result := .frame s.codec.args.frame } }

/-- The accessors (R143, R144, R145): GET_FUNCTION returns the function byte with bit 7 as stored, GET_DATA the data,
SET_DATA the frame with its data replaced, for every length DATA_MAX admits; beyond a finite DATA_MAX it completes with
the same address and function and data the model leaves free (the model's choice, log entry 22). -/
def Obligations.AccessorsReadAndReplace : Prop :=
  isOpRow .getFunction 0x6#4 ∧ isOpRow .getData 0x7#4 ∧ isOpRow .setData 0x8#4 ∧
  (∀ s : State, exec .getFunction s =
    .next { s with codec := { s.codec with result := .byte s.codec.args.frame.function } }) ∧
  (∀ s : State, exec .getData s =
    .next { s with codec := { s.codec with result := .bytes s.codec.args.frame.data } }) ∧
  (∀ s : State, (∀ m, s.params.dataMax = some m → s.codec.args.bytes.length ≤ m) → exec .setData s =
    .next { s with codec := { s.codec with result := .frame { s.codec.args.frame with data := s.codec.args.bytes } } }) ∧
  (∀ (s : State) (m : Nat), s.params.dataMax = some m → m < s.codec.args.bytes.length →
    ∃ d : List Byte, exec .setData s =
      .next { s with codec := { s.codec with result := .frame { s.codec.args.frame with data := d } } })

/-- The codec touches no reassembler (R20, R57, R130): an OP or FRAME instruction that completes changes only the
codec's result or the CRC register, never an operand, an instance, SINK or a parameter. -/
def Obligations.CodecTouchesNoReassembler : Prop :=
  ∀ (s t : State) (i : Instr), isCodec i = true → exec i s = .next t →
    t = { s with codec := { s.codec with result := t.codec.result, crc := t.codec.crc } } ∧
    ((i = .crcInit ∨ i = .crcByte ∨ i = .crcBit) → t.codec.result = s.codec.result) ∧
    (¬ (i = .crcInit ∨ i = .crcByte ∨ i = .crcBit) → t.codec.crc = s.codec.crc)

/-! ### The reassembler's transitions -/

/-- POLL.SHUTDOWN (R161): PHASE <- TERM and BUF is gone; nothing else changes. -/
def Obligations.PollShutdownTerminates : Prop :=
  isSelRow .pollShutdown 0x3C0#10 0x040#10 ∧
  ∀ (s : State) (i : Instance) (b : List Byte), s.insts[s.cur]? = some i → i.ctl = .poll b → i.shutdown = true →
    exec .pollShutdown s = .next { s with insts := s.insts.set s.cur { i with ctl := .term } }

/-- POLL.CONTINUE (R162): PHASE <- READ; BUF and all else as before. -/
def Obligations.PollContinueIssuesRead : Prop :=
  isSelRow .pollContinue 0x3C0#10 0x000#10 ∧
  ∀ (s : State) (i : Instance) (b : List Byte), s.insts[s.cur]? = some i → i.ctl = .poll b → i.shutdown = false →
    exec .pollContinue s = .next { s with insts := s.insts.set s.cur { i with ctl := .read b } }

/-- RX.TIMEOUT (R164): BUF <- [], PHASE <- POLL; the read result is consumed; nothing else changes. -/
def Obligations.RxTimeoutDiscardsBuffer : Prop :=
  isSelRow .rxTimeout 0x3B0#10 0x090#10 ∧
  ∀ (s : State) (i : Instance) (b : List Byte), s.insts[s.cur]? = some i → i.ctl = .read b → s.rx = some .timeout →
    exec .rxTimeout s = .next { s with insts := s.insts.set s.cur { i with ctl := .poll [] }, rx := none }

/-- RX.FATAL (R165): PHASE <- TERM, BUF gone; nothing else changes. -/
def Obligations.RxFatalTerminates : Prop :=
  isSelRow .rxFatal 0x3B0#10 0x0A0#10 ∧
  ∀ (s : State) (i : Instance) (b : List Byte), s.insts[s.cur]? = some i → i.ctl = .read b → s.rx = some .fatal →
    exec .rxFatal s = .next { s with insts := s.insts.set s.cur { i with ctl := .term }, rx := none }

/-- RX.DATA (R166): the bytes go at the end of BUF, in order, and PHASE <- DRAIN; with a finite BUF_CAP that the append
would exceed, BufferOverflow (R66, R208): BUF and PHASE unchanged, the instance faulted. Nothing else changes. -/
def Obligations.RxDataAppendsOrOverflows : Prop :=
  isSelRow .rxData 0x3B8#10 0x088#10 ∧
  ∀ (s : State) (i : Instance) (b bytes : List Byte), s.insts[s.cur]? = some i → i.ctl = .read b →
    s.rx = some (.ok bytes) → 1 ≤ bytes.length →
    ((∀ c, s.params.bufCap = some c → b.length + bytes.length ≤ c) →
      exec .rxData s = .next { s with insts := s.insts.set s.cur { i with ctl := .drain (b ++ bytes) }, rx := none }) ∧
    (∀ c, s.params.bufCap = some c → c < b.length + bytes.length →
      exec .rxData s = .next { s with insts := s.insts.set s.cur { i with ctl := .faulted b }, rx := none } ∧
      (Ctl.faulted b).phase = .read ∧ (Ctl.faulted b).buf = some b)

/-- RX.ZERO (R167): PHASE <- POLL, BUF kept; nothing else changes. -/
def Obligations.RxZeroKeepsBuffer : Prop :=
  isSelRow .rxZero 0x3B8#10 0x080#10 ∧
  ∀ (s : State) (i : Instance) (b : List Byte), s.insts[s.cur]? = some i → i.ctl = .read b → s.rx = some (.ok []) →
    exec .rxZero s = .next { s with insts := s.insts.set s.cur { i with ctl := .poll b }, rx := none }

/-- RX.EOS (R168): as EOS_AS says, TIMEOUT, FATAL or ZERO; nothing else changes. -/
def Obligations.RxEosFollowsParameter : Prop :=
  isSelRow .rxEos 0x3B0#10 0x0B0#10 ∧
  ∀ (s : State) (i : Instance) (b : List Byte), s.insts[s.cur]? = some i → i.ctl = .read b → s.rx = some .eos →
    (s.params.eosAs = .timeout →
      exec .rxEos s = .next { s with insts := s.insts.set s.cur { i with ctl := .poll [] }, rx := none }) ∧
    (s.params.eosAs = .fatal →
      exec .rxEos s = .next { s with insts := s.insts.set s.cur { i with ctl := .term }, rx := none }) ∧
    (s.params.eosAs = .zero →
      exec .rxEos s = .next { s with insts := s.insts.set s.cur { i with ctl := .poll b }, rx := none })

/-- DRAIN.TOOSHORT (R169): PHASE <- POLL, BUF unchanged; nothing else changes. -/
def Obligations.DrainTooShortKeepsBuffer : Prop :=
  isSelRow .drainTooShort 0x386#10 0x102#10 ∧
  ∀ (s : State) (i : Instance) (b : List Byte), s.insts[s.cur]? = some i → i.ctl = .drain b →
    b.length < 5 ∨ (b.length < 8 ∧ (b.getD 1 0#8).toNat ≤ 5) →
    exec .drainTooShort s = .next { s with insts := s.insts.set s.cur { i with ctl := .poll b } }

/-- DRAIN.BADCRC (R170): all of BUF goes, bytes behind the failed candidate too; PHASE <- POLL; nothing is forwarded. -/
def Obligations.DrainBadCrcWipesBuffer : Prop :=
  isSelRow .drainBadCrc 0x386#10 0x104#10 ∧
  ∀ (s : State) (i : Instance) (b : List Byte), s.insts[s.cur]? = some i → i.ctl = .drain b →
    ((8 ≤ b.length ∧ (b.getD 1 0#8).toNat ≤ 5 ∧ crcCheck (b.take 8) = false) ∨
      (5 ≤ b.length ∧ 6 ≤ (b.getD 1 0#8).toNat ∧ crcCheck b = false)) →
    exec .drainBadCrc s = .next { s with insts := s.insts.set s.cur { i with ctl := .poll [] } }

/-- DRAIN.OK (R171): PEND <- (PORT_ID, F), REM <- rem, PHASE <- PUSH, BUF not yet changed; the Request carries the
instance's own port (R222); nothing else changes. -/
def Obligations.DrainOkBuildsRequest : Prop :=
  isSelRow .drainOk 0x386#10 0x100#10 ∧
  ∀ (s : State) (i : Instance) (b rem : List Byte) (f : Frame), s.insts[s.cur]? = some i → i.ctl = .drain b →
    decodeBuf b = .ok f rem →
    exec .drainOk s = .next { s with insts := s.insts.set s.cur { i with ctl := .push b ⟨i.portId, f⟩ rem } } ∧
    (Ctl.push b ⟨i.portId, f⟩ rem).pend = some ⟨i.portId, f⟩ ∧ (Ctl.push b ⟨i.portId, f⟩ rem).rem = rem ∧
    (Ctl.push b ⟨i.portId, f⟩ rem).buf = some b

/-- PUSH.COMPLETE (R172): with room, SINK <- SINK ++ [PEND], BUF <- REM, PEND <- none, REM <- [], PHASE <- DRAIN in one
step; nothing else changes. -/
def Obligations.PushCompleteAppendsRequest : Prop :=
  isSelRow .pushComplete 0x381#10 0x181#10 ∧
  ∀ (s : State) (i : Instance) (b rem : List Byte) (q : Request), s.insts[s.cur]? = some i → i.ctl = .push b q rem →
    s.sink.length < s.params.sinkCap →
    exec .pushComplete s =
      .next { s with insts := s.insts.set s.cur { i with ctl := .drain rem }, sink := s.sink ++ [q] } ∧
    (Ctl.drain rem).pend = none ∧ (Ctl.drain rem).rem = []

/-- PUSH.BLOCKED (R173): with the sink full nothing changes, whatever SHUTDOWN is (R251). -/
def Obligations.PushBlockedChangesNothing : Prop :=
  isSelRow .pushBlocked 0x381#10 0x180#10 ∧
  ∀ (s : State) (i : Instance) (b rem : List Byte) (q : Request), s.insts[s.cur]? = some i → i.ctl = .push b q rem →
    s.sink.length = s.params.sinkCap → exec .pushBlocked s = .next s

/-- TERM.HALT (R174): no change. -/
def Obligations.TermHaltChangesNothing : Prop :=
  isSelRow .termHalt 0x380#10 0x200#10 ∧
  ∀ (s : State) (i : Instance), s.insts[s.cur]? = some i → i.ctl = .term → exec .termHalt s = .next s

/-- Exactly one transition rule applies in any state, given the inputs of the step (R95, R160): for the selected
instance, unless it is faulted or waits for its read, the SEL word decodes to a transition that completes, and every
other transition is not selected. -/
def Obligations.ExactlyOneTransitionApplies : Prop :=
  ∀ (s : State) (i : Instance), s.insts[s.cur]? = some i → (∀ b, i.ctl ≠ .faulted b) →
    ((∃ b, i.ctl = .read b) → s.rx ≠ none) →
    ∃ j ∈ transitions, decodeCode (.sel (s.selWord i)) = .ok j ∧ (∃ t, exec j s = .next t) ∧
      ∀ j' ∈ transitions, j' ≠ j → exec j' s = .refused .notSelected

/-- What a transition leaves alone (R30, R32, R38, R58): a SEL instruction that completes changes only the selected
instance, SINK and the presented read result; it keeps that instance's PORT_ID and SHUTDOWN level, and SINK changes only
by PUSH.COMPLETE, which appends that instance's Request. -/
def Obligations.TransitionFrame : Prop :=
  ∀ (s t : State) (j : Instr), j ∈ transitions → exec j s = .next t →
    ∃ i c, s.insts[s.cur]? = some i ∧ t = { s with insts := s.insts.set s.cur { i with ctl := c }, sink := t.sink, rx := t.rx } ∧
      (t.sink = s.sink ∨ (j = .pushComplete ∧ ∃ b q r, i.ctl = .push b q r ∧ t.sink = s.sink ++ [q]))

/-! ### Steps of the system -/

/-- A step runs the decoded instruction (R12, R95): when the fetch of the next move gives a code word that decodes to an
instruction, the step is exec of it in the state the fetch made; and what the fetch makes is, for `run p`, the SEL word
of instance p with that instance selected and no read presented; for `rx p r`, the SEL word with the read result
presented; for `call`, the OP code with the operands loaded; for `parse`, the function byte (or DECODE below 5 bytes). -/
def Obligations.StepRunsDecodedInstruction : Prop :=
  (∀ (s s' : State) (c : Code) (i : Instr), s.fetch = .code c s' → decodeCode c = .ok i → step s = exec i s') ∧
  (∀ (s : State) (p : Nat) (rest : List Move) (i : Instance), s.env = .run p :: rest → s.insts[p]? = some i →
    (∀ b, i.ctl ≠ .read b) → (∀ b, i.ctl ≠ .faulted b) → ∀ s' : State, s' = { s with env := rest, cur := p, rx := none } →
      s.fetch = .code (.sel (s'.selWord i)) s') ∧
  (∀ (s : State) (p : Nat) (r : ReadResult) (rest : List Move) (i : Instance) (b : List Byte), s.env = .rx p r :: rest →
    s.insts[p]? = some i → i.ctl = .read b → r.wf s.params = true →
    ∀ s' : State, s' = { s with env := rest, cur := p, rx := some r } → s.fetch = .code (.sel (s'.selWord i)) s') ∧
  (∀ (s : State) (op : BitVec 4) (a : Args) (rest : List Move), s.env = .call op a :: rest →
    s.fetch = .code (.op op) { s with env := rest, codec := { s.codec with args := a } }) ∧
  (∀ (s : State) (buf : List Byte) (rest : List Move), s.env = .parse buf :: rest →
    s.fetch = .code (if buf.length < 5 then .op 0x2#4 else .frame (buf.getD 1 0#8))
      { s with env := rest, codec := { s.codec with args := { s.codec.args with bytes := buf } } }) ∧
  (∀ s : State, s.env = [] → step s = step { s with env := [Config.freeMove s.tick], tick := s.tick + 1 })

/-- The moves that are no instruction (R215, R216), and the waits (R66, R163, R225): the consumer removes the head of
SINK; the controller sets a SHUTDOWN level or creates an instance on a terminated port; an instance in READ that is let
run waits for its port, and a faulted one takes no further step. -/
def Obligations.EnvironmentMovesAndWaits : Prop :=
  (∀ (s : State) (q : Request) (qs : List Request) (rest : List Move), s.env = .pop :: rest → s.sink = q :: qs →
    step s = .next { s with env := rest, sink := qs }) ∧
  (∀ (s : State) (p : Nat) (b : Bool) (rest : List Move) (i : Instance), s.env = .shutdown p b :: rest →
    s.insts[p]? = some i → step s = .next { s with env := rest, insts := s.insts.set p { i with shutdown := b } }) ∧
  (∀ (s : State) (p : Nat) (rest : List Move) (i : Instance), s.env = .create p :: rest → s.insts[p]? = some i →
    i.ctl = .term → step s = .next { s with env := rest, insts := s.insts.set p { i with ctl := .poll [] } }) ∧
  (∀ (s : State) (p : Nat) (rest : List Move) (i : Instance), s.env = .run p :: rest → s.insts[p]? = some i →
    ((∃ b, i.ctl = .read b) ∨ ∃ b, i.ctl = .faulted b) → step s = .next { s with env := rest })

/-- Where the environment has no move, the step is refused by name (R94, R212, R215, R240, D28; log entries 12 and 17): a
read completion with no read pending, a chunk above READ_MAX, a pop of an empty SINK, a creation on a port in use, a
reserved OP code. The last clause, a move for a position with no instance, is the model's own choice, log entry 18. -/
def Obligations.IllFormedMovesStopByName : Prop :=
  ∀ (s : State) (rest : List Move),
    (∀ p r i, s.env = .rx p r :: rest → s.insts[p]? = some i → (∀ b, i.ctl ≠ .read b) →
      step s = .refused .noReadPending) ∧
    (∀ p bytes i b m, s.env = .rx p (.ok bytes) :: rest → s.insts[p]? = some i → i.ctl = .read b →
      s.params.readMax = some m → m < bytes.length → step s = .refused .chunkTooLong) ∧
    (s.env = .pop :: rest → s.sink = [] → step s = .refused .sinkEmpty) ∧
    (∀ p i, s.env = .create p :: rest → s.insts[p]? = some i → i.ctl ≠ .term → step s = .refused .portInUse) ∧
    (∀ op a, s.env = .call op a :: rest → 0xC ≤ op.toNat → step s = .refused .reservedOp) ∧
    (∀ p, s.insts[p]? = none → s.env = .run p :: rest ∨ (∃ r, s.env = .rx p r :: rest) ∨ s.env = .create p :: rest ∨
      (∃ b, s.env = .shutdown p b :: rest) → step s = .refused .noSuchInstance)

/-- Nothing that can happen is refused (R131, R160, R212): every well-formed move that its agent can make in this state
gives a next state. That a `run` of an instance in READ or of a faulted one, which have no step of their own (R163, R66),
completes, changing nothing, is the model's choice, log entry 11. -/
def Obligations.EveryPossibleMoveCompletes : Prop :=
  ∀ (s : State) (m : Move) (rest : List Move), s.env = m :: rest → m.wf s.params s.insts.length = true →
    s.possible m → ∃ t, step s = .next t

/-- PHASE advances by the table of R28 and by no other way, and a terminated instance stays so until the controller
creates a new one (R174, R220, R240); a faulted instance stays faulted with its buffer (R66). -/
def Obligations.PhaseAdvancesByTable : Prop :=
  ∀ (s t : State) (p : Nat) (i j : Instance), step s = .next t → s.insts[p]? = some i → t.insts[p]? = some j →
    j.ctl = i.ctl ∨
    match i.ctl with
    | .poll b => (i.shutdown = true ∧ j.ctl = .term) ∨ (i.shutdown = false ∧ j.ctl = .read b)
    | .read b => j.ctl = .poll [] ∨ j.ctl = .poll b ∨ j.ctl = .term ∨ j.ctl = .faulted b ∨
        ∃ bytes, bytes ≠ [] ∧ j.ctl = .drain (b ++ bytes)
    | .drain b => (j.ctl = .poll b ∧ decodeBuf b = .tooShort b) ∨
        (j.ctl = .poll [] ∧ decodeBuf b = .checksumMismatch []) ∨
        ∃ f r, decodeBuf b = .ok f r ∧ j.ctl = .push b ⟨i.portId, f⟩ r
    | .push _ q r => j.ctl = .drain r ∧ t.sink = s.sink ++ [q]
    | .term => s.nextMove.1 = .create p ∧ j.ctl = .poll []
    | .faulted _ => False

/-- Isolation (R38): a step changes no instance but the one its move is for; codec calls and the consumer change none. -/
def Obligations.StepsTouchOnlyTheirInstance : Prop :=
  ∀ (s t : State) (q : Nat), step s = .next t → moveTarget s.nextMove.1 ≠ some q → t.insts[q]? = s.insts[q]?

/-- No step writes a parameter, the number of instances or a PORT_ID (R30, R32, R37). -/
def Obligations.ParametersAndPortsAreConstant : Prop :=
  ∀ s t : State, step s = .next t →
    t.params = s.params ∧ t.insts.length = s.insts.length ∧ t.insts.map Instance.portId = s.insts.map Instance.portId

/-- The queue discipline of SINK (R34, R61, R62): a step leaves it, or removes its head by the consumer's move, or
appends at its tail the one Request of an instance in PUSH, with room, which then leaves PUSH. -/
def Obligations.SinkIsFifo : Prop :=
  ∀ s t : State, step s = .next t →
    t.sink = s.sink ∨
    (s.nextMove.1 = .pop ∧ ∃ q, s.sink = q :: t.sink) ∨
    ∃ p i b q r, s.nextMove.1 = .run p ∧ s.insts[p]? = some i ∧ i.ctl = .push b q r ∧
      s.sink.length < s.params.sinkCap ∧ t.sink = s.sink ++ [q] ∧ t.insts = s.insts.set p { i with ctl := .drain r }

/-- SHUTDOWN is looked at in POLL only (R31, R205): unless instance p is let run in POLL, or the controller drives that
very input, the step does the same whatever the level of p's SHUTDOWN. -/
def Obligations.ShutdownSeenOnlyInPoll : Prop :=
  ∀ (s : State) (p : Nat) (level : Bool),
    (∀ i b, s.nextMove.1 = .run p → s.insts[p]? = some i → i.ctl ≠ .poll b) →
    (∀ b, s.nextMove.1 ≠ .shutdown p b) →
    step (s.withShutdown p level) = mapNext (·.withShutdown p level) (step s)

/-- Big step (R176): a chunk read into BUF = b, followed by the DRAIN and PUSH steps up to the next POLL, with room for
every hand-off, appends the frames of drain(b ++ bytes) to SINK, in order, under the instance's own port, and leaves the
rest in BUF; the number of hand-offs is at most n/8 + 1 for n bytes (R175). -/
def Obligations.ChunkIsDrainedInOneRun : Prop :=
  ∀ (s : State) (p : Nat) (i : Instance) (b bytes : List Byte) (rest : List Move),
    s.insts[p]? = some i → i.ctl = .read b → bytes ≠ [] →
    (∀ m, s.params.readMax = some m → bytes.length ≤ m) →
    (∀ c, s.params.bufCap = some c → b.length + bytes.length ≤ c) →
    s.sink.length + (drain (b ++ bytes)).1.length ≤ s.params.sinkCap →
    (drain (b ++ bytes)).1.length ≤ (b ++ bytes).length / 8 + 1 ∧
    ∃ k, steps (k + 1) { s with env := .rx p (.ok bytes) :: (List.replicate k (.run p) ++ rest) } =
      .next { s with
        env := rest, cur := p, rx := none
        insts := s.insts.set p { i with ctl := .poll (drain (b ++ bytes)).2 }
        sink := s.sink ++ (drain (b ++ bytes)).1.map fun f => ⟨i.portId, f⟩ }

/-- Mixed buffers (R247): FIXED8 frames followed by one complete VAR frame are all forwarded and nothing is left;
followed instead by fewer than 5 bytes, the frames are forwarded and those bytes kept. -/
def Obligations.FixedFramesThenTail : Prop :=
  ∀ fs : List Frame, (∀ f ∈ fs, f.function.toNat ≤ 5 ∧ f.data.length = 4) →
    (∀ v : Frame, 6 ≤ v.function.toNat → v.data ≠ [] →
      drain (fs.flatMap encodeFrame ++ encodeFrame v) = (fs ++ [v], [])) ∧
    (∀ tail : List Byte, tail.length < 5 → drain (fs.flatMap encodeFrame ++ tail) = (fs, tail))

/-! ### Encodings -/

/-- Decoding an encoded instruction gives it back, with every operand at every value the encoding admits, through the
bytes of its code word; and every code word that decodes is in the row of the instruction it decodes to: the encoding
of that instruction, for FRAME and OP words the word itself. The bytes of a code word are the model's layout, log entry 16. -/
def Obligations.DecodeEncodeAgree : Prop :=
  (∀ i : Instr, i.wf = true → decodeBytes (encode i).format (encode i).bytes = .ok i) ∧
  (∀ (c : Code) (i : Instr), decodeCode c = .ok i → i.wf = true ∧ decodeCode (encode i) = .ok i ∧
    (c.format ≠ .sel → encode i = c) ∧ (encode i).format = c.format)

/-- What decoding rejects (R94, R95, I16): exactly the OP codes 0xC to 0xF, and the SEL words with PHASE 5 to 7, or with
PHASE 2 and ERR 3; no function byte. -/
def Obligations.RejectedCodeWords : Prop :=
  (∀ fn : Byte, ∃ i, decodeCode (.frame fn) = .ok i) ∧
  (∀ c : BitVec 4, decodeCode (.op c) = .error .reservedOp ↔ 0xC ≤ c.toNat) ∧
  (∀ w : BitVec 10, decodeCode (.sel w) = .error .noSelRow ↔
    5 ≤ (w.extractLsb' 7 3).toNat ∨ ((w.extractLsb' 7 3).toNat = 2 ∧ (w.extractLsb' 1 2).toNat = 3))

/-- A few words of R84, R94 and R95, written out, decode to their instructions. Their numbers are the spec's; the layout
in bytes, an OP code in one byte and a SEL word in two with the low byte first, is the model's choice, log entry 16. -/
def Obligations.SampleWordsDecode : Prop :=
  decodeBytes .frame [0x03#8] = .ok (.frameFixed8_00_03 0x03#8) ∧
  decodeBytes .frame [0x83#8] = .ok (.frameVar_80_FF 0x83#8) ∧
  decodeBytes .op [0x02#8] = .ok .decode ∧ decodeBytes .op [0x0B#8] = .ok .crcBit ∧
  decodeBytes .sel [0x88#8, 0x00#8] = .ok .rxData ∧ decodeBytes .sel [0x81#8, 0x01#8] = .ok .pushComplete ∧
  decodeBytes .sel [0x04#8, 0x01#8] = .ok .drainBadCrc ∧ decodeBytes .op [0x0C#8] = .error .reservedOp
end

