-- ==== Sys2Proof/Laws/State.lean ====
section
/-! SUPPORT. One lemma per field per update of the state, each true by unfolding, so that later proofs need not unfold a
record update. -/

namespace Sys2Proof.Machine

section Updates

variable (s : State) (i : Instance) (c : Ctl) (b r : List Byte) (q : Request) (a : Args) (v : Result) (w : Word)

@[simp] theorem setCtl_params : (s.setCtl i c).params = s.params := rfl
@[simp] theorem setCtl_insts : (s.setCtl i c).insts = s.insts.set s.cur { i with ctl := c } := rfl
@[simp] theorem setCtl_sink : (s.setCtl i c).sink = s.sink := rfl
@[simp] theorem setCtl_cur : (s.setCtl i c).cur = s.cur := rfl
@[simp] theorem setCtl_rx : (s.setCtl i c).rx = s.rx := rfl
@[simp] theorem setCtl_codec : (s.setCtl i c).codec = s.codec := rfl
@[simp] theorem setCtl_env : (s.setCtl i c).env = s.env := rfl
@[simp] theorem setCtl_tick : (s.setCtl i c).tick = s.tick := rfl

@[simp] theorem endRead_params : s.endRead.params = s.params := rfl
@[simp] theorem endRead_insts : s.endRead.insts = s.insts := rfl
@[simp] theorem endRead_sink : s.endRead.sink = s.sink := rfl
@[simp] theorem endRead_cur : s.endRead.cur = s.cur := rfl
@[simp] theorem endRead_rx : s.endRead.rx = none := rfl
@[simp] theorem endRead_codec : s.endRead.codec = s.codec := rfl
@[simp] theorem endRead_env : s.endRead.env = s.env := rfl
@[simp] theorem endRead_tick : s.endRead.tick = s.tick := rfl

@[simp] theorem handOff_params : (s.handOff i q r).params = s.params := rfl
@[simp] theorem handOff_insts : (s.handOff i q r).insts = s.insts.set s.cur { i with ctl := .drain r } := rfl
@[simp] theorem handOff_sink : (s.handOff i q r).sink = s.sink ++ [q] := rfl
@[simp] theorem handOff_cur : (s.handOff i q r).cur = s.cur := rfl
@[simp] theorem handOff_rx : (s.handOff i q r).rx = s.rx := rfl
@[simp] theorem handOff_codec : (s.handOff i q r).codec = s.codec := rfl
@[simp] theorem handOff_env : (s.handOff i q r).env = s.env := rfl
@[simp] theorem handOff_tick : (s.handOff i q r).tick = s.tick := rfl

@[simp] theorem returns_params : (s.returns v).params = s.params := rfl
@[simp] theorem returns_insts : (s.returns v).insts = s.insts := rfl
@[simp] theorem returns_sink : (s.returns v).sink = s.sink := rfl
@[simp] theorem returns_cur : (s.returns v).cur = s.cur := rfl
@[simp] theorem returns_rx : (s.returns v).rx = s.rx := rfl
@[simp] theorem returns_env : (s.returns v).env = s.env := rfl
@[simp] theorem returns_tick : (s.returns v).tick = s.tick := rfl
@[simp] theorem returns_crc : (s.returns v).codec.crc = s.codec.crc := rfl
@[simp] theorem returns_args : (s.returns v).codec.args = s.codec.args := rfl
@[simp] theorem returns_result : (s.returns v).codec.result = v := rfl

@[simp] theorem setCrc_params : (s.setCrc w).params = s.params := rfl
@[simp] theorem setCrc_insts : (s.setCrc w).insts = s.insts := rfl
@[simp] theorem setCrc_sink : (s.setCrc w).sink = s.sink := rfl
@[simp] theorem setCrc_cur : (s.setCrc w).cur = s.cur := rfl
@[simp] theorem setCrc_rx : (s.setCrc w).rx = s.rx := rfl
@[simp] theorem setCrc_env : (s.setCrc w).env = s.env := rfl
@[simp] theorem setCrc_tick : (s.setCrc w).tick = s.tick := rfl
@[simp] theorem setCrc_crc : (s.setCrc w).codec.crc = w := rfl
@[simp] theorem setCrc_args : (s.setCrc w).codec.args = s.codec.args := rfl
@[simp] theorem setCrc_result : (s.setCrc w).codec.result = s.codec.result := rfl

@[simp] theorem withArgs_params : (s.withArgs a).params = s.params := rfl
@[simp] theorem withArgs_insts : (s.withArgs a).insts = s.insts := rfl
@[simp] theorem withArgs_sink : (s.withArgs a).sink = s.sink := rfl
@[simp] theorem withArgs_cur : (s.withArgs a).cur = s.cur := rfl
@[simp] theorem withArgs_rx : (s.withArgs a).rx = s.rx := rfl
@[simp] theorem withArgs_env : (s.withArgs a).env = s.env := rfl
@[simp] theorem withArgs_tick : (s.withArgs a).tick = s.tick := rfl
@[simp] theorem withArgs_crc : (s.withArgs a).codec.crc = s.codec.crc := rfl
@[simp] theorem withArgs_args : (s.withArgs a).codec.args = a := rfl
@[simp] theorem withArgs_result : (s.withArgs a).codec.result = s.codec.result := rfl

@[simp] theorem select_params (p : Nat) (r : Option ReadResult) : (s.select p r).params = s.params := rfl
@[simp] theorem select_insts (p : Nat) (r : Option ReadResult) : (s.select p r).insts = s.insts := rfl
@[simp] theorem select_sink (p : Nat) (r : Option ReadResult) : (s.select p r).sink = s.sink := rfl
@[simp] theorem select_cur (p : Nat) (r : Option ReadResult) : (s.select p r).cur = p := rfl
@[simp] theorem select_rx (p : Nat) (r : Option ReadResult) : (s.select p r).rx = r := rfl
@[simp] theorem select_codec (p : Nat) (r : Option ReadResult) : (s.select p r).codec = s.codec := rfl
@[simp] theorem select_env (p : Nat) (r : Option ReadResult) : (s.select p r).env = s.env := rfl
@[simp] theorem select_tick (p : Nat) (r : Option ReadResult) : (s.select p r).tick = s.tick := rfl

/-- The instance last written reads back. -/
theorem setCtl_selected (h : s.insts[s.cur]? = some i) :
    (s.setCtl i c).insts[s.cur]? = some { i with ctl := c } := by
  have hlt : s.cur < s.insts.length := (List.getElem?_eq_some_iff.mp h).1
  simp [hlt]

/-- Every other instance is as before (R38). -/
theorem setCtl_other (p : Nat) (hp : p ≠ s.cur) : (s.setCtl i c).insts[p]? = s.insts[p]? := by
  simp [List.getElem?_set_ne (Ne.symm hp)]

end Updates

end Sys2Proof.Machine
end

