-- ==== Sys2Proof/Laws/Ops.lean ====
section
/-! SUPPORT. What each shared operation can do, said once: if it answers a next state, then this held. -/

namespace Sys2Proof.Machine

/-- `onSelected` with a selected instance is its continuation. -/
theorem onSelected_eq {s : State} {i : Instance} (h : s.insts[s.cur]? = some i) (k : Instance → Out) :
    s.onSelected k = k i := by simp [State.onSelected, h]

/-- A next state out of `onSelected` comes from the selected instance. -/
theorem onSelected_next {s t : State} {k : Instance → Out} (h : s.onSelected k = .next t) :
    ∃ i, s.insts[s.cur]? = some i ∧ k i = .next t := by
  unfold State.onSelected at h
  split at h
  · exact ⟨_, by assumption, h⟩
  · cases h

/-- `onRead` of an instance in READ with a completed read is its continuation. -/
theorem onRead_eq {s : State} {i : Instance} {b : List Byte} {r : ReadResult} (h : s.insts[s.cur]? = some i)
    (hc : i.ctl = .read b) (hr : s.rx = some r) (k : Instance → List Byte → ReadResult → Out) :
    s.onRead k = k i b r := by simp [State.onRead, State.onSelected, h, hc, hr]

/-- A next state out of `onRead` comes from an instance in READ whose read has completed. -/
theorem onRead_next {s t : State} {k : Instance → List Byte → ReadResult → Out} (h : s.onRead k = .next t) :
    ∃ i b r, s.insts[s.cur]? = some i ∧ i.ctl = .read b ∧ s.rx = some r ∧ k i b r = .next t := by
  obtain ⟨i, hi, hk⟩ := onSelected_next h
  split at hk
  · exact ⟨i, _, _, hi, by assumption, by assumption, hk⟩
  · cases hk

/-- A next state out of `onFrame` is the codec's result, and the row was selected. -/
theorem onFrame_next {s t : State} {mask value fn : Byte} {dec : List Byte → DecodeResult}
    (h : s.onFrame mask value fn dec = .next t) :
    5 ≤ s.codec.args.bytes.length ∧ byteAt s.codec.args.bytes 1 = fn ∧ fn &&& mask = value ∧
      t = s.returns (.decoded (dec s.codec.args.bytes)) := by
  unfold State.onFrame at h
  split at h
  · rename_i hc
    simp only [Bool.and_eq_true, beq_iff_eq] at hc
    exact ⟨of_decide_eq_true hc.1.1, hc.1.2, hc.2, (Host.Outcome.next.inj h).symm⟩
  · cases h

/-- The bound the operations test is the bound well-formedness speaks of. -/
theorem fits_eq_withinBound (bound : Option Nat) (n : Nat) : fits bound n = withinBound bound n := by
  cases bound <;> rfl

/-- A chunk the fetch accepts is a well-formed read result (R212). -/
theorem chunkFits_eq_wf (p : Params) (r : ReadResult) : chunkFits p.readMax r = r.wf p := by
  cases r <;> rfl

/-- What the fetch of a `run` move can lead to. -/
theorem fetchRun_cases (s : State) (p : Nat) :
    (s.insts[p]? = none ∧ s.fetchRun p = .ends (.refused .noSuchInstance)) ∨
    (∃ i, s.insts[p]? = some i ∧ ((∃ b, i.ctl = .read b) ∨ ∃ b, i.ctl = .faulted b) ∧
      s.fetchRun p = .ends (.next s)) ∨
    (∃ i, s.insts[p]? = some i ∧ (∀ b, i.ctl ≠ .read b) ∧ (∀ b, i.ctl ≠ .faulted b) ∧
      s.fetchRun p = .code (.sel ((s.select p none).selWord i)) (s.select p none)) := by
  unfold State.fetchRun
  cases h : s.insts[p]? with
  | none => simp
  | some i => cases hc : i.ctl <;> simp [hc]

/-- What the fetch of a read completion can lead to. -/
theorem fetchRx_cases (s : State) (p : Nat) (r : ReadResult) :
    (s.insts[p]? = none ∧ s.fetchRx p r = .ends (.refused .noSuchInstance)) ∨
    (∃ i, s.insts[p]? = some i ∧ (∀ b, i.ctl ≠ .read b) ∧ s.fetchRx p r = .ends (.refused .noReadPending)) ∨
    (∃ i b, s.insts[p]? = some i ∧ i.ctl = .read b ∧ chunkFits s.params.readMax r = false ∧
      s.fetchRx p r = .ends (.refused .chunkTooLong)) ∨
    (∃ i b, s.insts[p]? = some i ∧ i.ctl = .read b ∧ chunkFits s.params.readMax r = true ∧
      s.fetchRx p r = .code (.sel ((s.select p (some r)).selWord i)) (s.select p (some r))) := by
  unfold State.fetchRx
  cases h : s.insts[p]? with
  | none => simp
  | some i => cases hc : i.ctl <;> cases chunkFits s.params.readMax r <;> simp [hc]

end Sys2Proof.Machine
end

