-- ==== Sys2Proof/Laws/Codec.lean ====
section
/-! SUPPORT. The laws of byte sequences and of the codec that later proofs cite: slices, the checksum's two bytes, the
streaming law R118, and what DECODE can answer. -/

namespace Sys2Proof.Machine

theorem length_slice (s : List Byte) (a b : Nat) : (slice s a b).length = min (b - a) (s.length - a) := by
  simp [slice]

theorem byteAt_append_left {s : List Byte} {i : Nat} (h : i < s.length) (t : List Byte) :
    byteAt (s ++ t) i = byteAt s i := by
  simp only [byteAt, List.getD_eq_getElem?_getD, List.getElem?_append_left h]

theorem length_crcBytes (c : Word) : (crcBytes c).length = 2 := rfl

theorem length_encodeFrame (f : Frame) : (encodeFrame f).length = f.data.length + 4 := by
  simp [encodeFrame, frameBody, crcBytes]

/-- Low byte and high byte, put together again, are the word (R53). -/
theorem word_of_bytes (c : Word) :
    (c.extractLsb' 0 8).setWidth 16 ||| ((c.extractLsb' 8 8).setWidth 16 <<< 8) = c := by
  apply BitVec.eq_of_getLsbD_eq
  intro i hi
  simp only [BitVec.getLsbD_or, BitVec.getLsbD_setWidth, BitVec.getLsbD_shiftLeft, BitVec.getLsbD_extractLsb']
  by_cases h : i < 8
  · simp [h, hi]
  · have h8 : i - 8 < 8 := by omega
    have hs : 8 + (i - 8) = i := by omega
    simp [h, h8, hi, hs]
    omega

/-- The received checksum of bytes followed by a checksum is that checksum. -/
theorem rxChecksum_append (m : List Byte) (c : Word) : rxChecksum (m ++ crcBytes c) = c := by
  have h : rxChecksum (m ++ crcBytes c) =
      (c.extractLsb' 0 8).setWidth 16 ||| ((c.extractLsb' 8 8).setWidth 16 <<< 8) := by
    simp [rxChecksum, byteAt, crcBytes]
  rw [h, word_of_bytes]

/-- What the checksum covers, of bytes followed by a checksum, is those bytes. -/
theorem covered_append (m : List Byte) (c : Word) : covered (m ++ crcBytes c) = m := by
  simp [covered, slice, crcBytes, crcLen]

/-- `rx` is MemRead(N-2, 2) of the candidate (R10, R85). -/
theorem rxChecksum_eq_memRead (cand : List Byte) (h : 2 ≤ cand.length) :
    (rxChecksum cand).toNat = memRead cand (cand.length - 2) 2 := by
  have e : cand.length - 2 + 1 = cand.length - 1 := by omega
  simp only [rxChecksum, memRead, e]
  generalize byteAt cand (cand.length - 2) = x
  generalize byteAt cand (cand.length - 1) = y
  have hx := x.isLt
  have hy := y.isLt
  rw [BitVec.or_comm, BitVec.toNat_or, BitVec.toNat_shiftLeft, BitVec.toNat_setWidth, BitVec.toNat_setWidth,
    Nat.mod_eq_of_lt (a := y.toNat) (by omega), Nat.mod_eq_of_lt (a := x.toNat) (by omega),
    Nat.mod_eq_of_lt (by rw [Nat.shiftLeft_eq]; omega), ← Nat.shiftLeft_add_eq_or_of_lt (by omega : x.toNat < 2 ^ 8),
    Nat.shiftLeft_eq]
  omega

/-- Streaming (R118): the register after a prefix can be kept and continued. -/
theorem crc16_append (a b : List Byte) : crc16 (a ++ b) = b.foldl crcByteStep (crc16 a) := by
  simp [crc16]

/-- Within DATA_MAX the value is the rule's. -/
theorem byDataMax_within {α : Type} {dataMax : Option Nat} {n : Nat} (h : ∀ m, dataMax = some m → n ≤ m) (a : α) (f : Nat → α) :
    byDataMax dataMax n a f = a := by
  cases dataMax with
  | none => rfl
  | some m => exact if_pos (h m rfl)

/-- Beyond a finite DATA_MAX the value is the free one. -/
theorem byDataMax_beyond {α : Type} {m n : Nat} (h : m < n) (a : α) (f : Nat → α) : byDataMax (some m) n a f = f m :=
  if_neg (Nat.not_le.mpr h)

/-- What `judge` can answer. -/
theorem judge_cases (cand rem : List Byte) :
    (crcCheck cand = true ∧ judge cand rem = .ok (frameOf cand) rem) ∨
    (crcCheck cand = false ∧ judge cand rem = .checksumMismatch []) := by
  unfold judge
  cases crcCheck cand <;> simp

/-- What DECODE can answer, in the order of its checks (R131, R206). -/
theorem decodeBuf_cases (buf : List Byte) :
    (buf.length < 5 ∧ decodeBuf buf = .tooShort buf) ∨
    (5 ≤ buf.length ∧ isFixed (byteAt buf 1) = true ∧ buf.length < 8 ∧ decodeBuf buf = .tooShort buf) ∨
    (8 ≤ buf.length ∧ isFixed (byteAt buf 1) = true ∧
      decodeBuf buf = judge (slice buf 0 8) (slice buf 8 buf.length)) ∨
    (5 ≤ buf.length ∧ isFixed (byteAt buf 1) = false ∧ decodeBuf buf = judge buf []) := by
  unfold decodeBuf decodeFixed decodeVar
  simp only [minLen, fixedLen]
  by_cases h5 : buf.length < 5
  · simp [h5]
  · cases hf : isFixed (byteAt buf 1)
    · simp [h5]; omega
    · by_cases h8 : buf.length < 8
      · simp [h5, h8]; left; omega
      · simp [h5, h8]; omega

/-- The remainder of TooShort is the buffer (R133). -/
theorem decodeBuf_tooShort_self {b r : List Byte} (h : decodeBuf b = .tooShort r) : r = b := by
  rcases decodeBuf_cases b with ⟨_, e⟩ | ⟨_, _, _, e⟩ | ⟨_, _, e⟩ | ⟨_, _, e⟩ <;> rw [e] at h
  · cases h; rfl
  · cases h; rfl
  · rcases judge_cases (slice b 0 8) (slice b 8 b.length) with ⟨_, e⟩ | ⟨_, e⟩ <;> rw [e] at h <;> cases h
  · rcases judge_cases b [] with ⟨_, e⟩ | ⟨_, e⟩ <;> rw [e] at h <;> cases h

/-- The remainder of ChecksumMismatch is empty (R133). -/
theorem decodeBuf_mismatch_nil {b r : List Byte} (h : decodeBuf b = .checksumMismatch r) : r = [] := by
  rcases decodeBuf_cases b with ⟨_, e⟩ | ⟨_, _, _, e⟩ | ⟨_, _, e⟩ | ⟨_, _, e⟩ <;> rw [e] at h
  · cases h
  · cases h
  · rcases judge_cases (slice b 0 8) (slice b 8 b.length) with ⟨_, e⟩ | ⟨_, e⟩ <;> rw [e] at h <;> cases h; rfl
  · rcases judge_cases b [] with ⟨_, e⟩ | ⟨_, e⟩ <;> rw [e] at h <;> cases h; rfl

end Sys2Proof.Machine
end

