-- ==== Sys2Proof/Laws/PerInstr.lean ====
section
/-! SUPPORT. Per-instruction family TableRow: the code word of every well-formed instruction lies in its row of
spec/opcode_table.json, in the row's format and under the row's mask and match. -/

namespace Sys2Proof.Laws.TableRow

/-- A code word as the table numbers it. -/
def codeNat : Code → Nat
  | .frame fn => fn.toNat
  | .op c => c.toNat
  | .sel w => w.toNat

/-- Format, mask and match of the row of each instruction, from spec/opcode_table.json. -/
def tableEntry : Instr → Format × Nat × Nat
  | .frameFixed8_00_03 _ => (.frame, 0xFC, 0x00)
  | .frameFixed8_04_05 _ => (.frame, 0xFE, 0x04)
  | .frameVar_06_07 _ => (.frame, 0xFE, 0x06)
  | .frameVar_08_0F _ => (.frame, 0xF8, 0x08)
  | .frameVar_10_1F _ => (.frame, 0xF0, 0x10)
  | .frameVar_20_3F _ => (.frame, 0xE0, 0x20)
  | .frameVar_40_7F _ => (.frame, 0xC0, 0x40)
  | .frameVar_80_FF _ => (.frame, 0x80, 0x80)
  | .crc16 => (.op, 0xF, 0x0)
  | .crcCheck => (.op, 0xF, 0x1)
  | .decode => (.op, 0xF, 0x2)
  | .encode => (.op, 0xF, 0x3)
  | .setException => (.op, 0xF, 0x4)
  | .copy => (.op, 0xF, 0x5)
  | .getFunction => (.op, 0xF, 0x6)
  | .getData => (.op, 0xF, 0x7)
  | .setData => (.op, 0xF, 0x8)
  | .crcInit => (.op, 0xF, 0x9)
  | .crcByte => (.op, 0xF, 0xA)
  | .crcBit => (.op, 0xF, 0xB)
  | .pollShutdown => (.sel, 0x3C0, 0x040)
  | .pollContinue => (.sel, 0x3C0, 0x000)
  | .rxData => (.sel, 0x3B8, 0x088)
  | .rxZero => (.sel, 0x3B8, 0x080)
  | .rxTimeout => (.sel, 0x3B0, 0x090)
  | .rxFatal => (.sel, 0x3B0, 0x0A0)
  | .rxEos => (.sel, 0x3B0, 0x0B0)
  | .drainOk => (.sel, 0x386, 0x100)
  | .drainTooShort => (.sel, 0x386, 0x102)
  | .drainBadCrc => (.sel, 0x386, 0x104)
  | .pushComplete => (.sel, 0x381, 0x181)
  | .pushBlocked => (.sel, 0x381, 0x180)
  | .termHalt => (.sel, 0x380, 0x200)

/-- The code word of a well-formed instruction is a word of its row. -/
def Statement (i : Instr) : Prop :=
  i.wf = true →
    (encode i).format = (tableEntry i).1 ∧ codeNat (encode i) &&& (tableEntry i).2.1 = (tableEntry i).2.2

/-- A function byte under a mask, as numbers. -/
theorem masked {fn m v : Byte} (h : (fn &&& m == v) = true) : fn.toNat &&& m.toNat = v.toNat := by
  rw [← BitVec.toNat_and, beq_iff_eq.mp h]

theorem frameFixed8_00_03 (fn : Byte) : Statement (.frameFixed8_00_03 fn) := fun h => ⟨rfl, masked h⟩
theorem frameFixed8_04_05 (fn : Byte) : Statement (.frameFixed8_04_05 fn) := fun h => ⟨rfl, masked h⟩
theorem frameVar_06_07 (fn : Byte) : Statement (.frameVar_06_07 fn) := fun h => ⟨rfl, masked h⟩
theorem frameVar_08_0F (fn : Byte) : Statement (.frameVar_08_0F fn) := fun h => ⟨rfl, masked h⟩
theorem frameVar_10_1F (fn : Byte) : Statement (.frameVar_10_1F fn) := fun h => ⟨rfl, masked h⟩
theorem frameVar_20_3F (fn : Byte) : Statement (.frameVar_20_3F fn) := fun h => ⟨rfl, masked h⟩
theorem frameVar_40_7F (fn : Byte) : Statement (.frameVar_40_7F fn) := fun h => ⟨rfl, masked h⟩
theorem frameVar_80_FF (fn : Byte) : Statement (.frameVar_80_FF fn) := fun h => ⟨rfl, masked h⟩
theorem crc16 : Statement .crc16 := fun _ => by decide
theorem crcCheck : Statement .crcCheck := fun _ => by decide
theorem decode : Statement .decode := fun _ => by decide
theorem encode : Statement .encode := fun _ => by decide
theorem setException : Statement .setException := fun _ => by decide
theorem copy : Statement .copy := fun _ => by decide
theorem getFunction : Statement .getFunction := fun _ => by decide
theorem getData : Statement .getData := fun _ => by decide
theorem setData : Statement .setData := fun _ => by decide
theorem crcInit : Statement .crcInit := fun _ => by decide
theorem crcByte : Statement .crcByte := fun _ => by decide
theorem crcBit : Statement .crcBit := fun _ => by decide
theorem pollShutdown : Statement .pollShutdown := fun _ => by decide
theorem pollContinue : Statement .pollContinue := fun _ => by decide
theorem rxData : Statement .rxData := fun _ => by decide
theorem rxZero : Statement .rxZero := fun _ => by decide
theorem rxTimeout : Statement .rxTimeout := fun _ => by decide
theorem rxFatal : Statement .rxFatal := fun _ => by decide
theorem rxEos : Statement .rxEos := fun _ => by decide
theorem drainOk : Statement .drainOk := fun _ => by decide
theorem drainTooShort : Statement .drainTooShort := fun _ => by decide
theorem drainBadCrc : Statement .drainBadCrc := fun _ => by decide
theorem pushComplete : Statement .pushComplete := fun _ => by decide
theorem pushBlocked : Statement .pushBlocked := fun _ => by decide
theorem termHalt : Statement .termHalt := fun _ => by decide

end Sys2Proof.Laws.TableRow
end

