-- ==== Sys2Proof/Laws/Step.lean ====
section
/-! SUPPORT. What a transition and a step can do, said once: an instruction of the SEL table that completes is one of
the cases of `Transition`; a codec instruction that completes changes the codec's result or CRC register; a step that
gives a next state is one of the cases of `step_cases`. -/

namespace Sys2Proof.Machine

/-- The transitions of the selected instance: instruction and next state (R161 to R174). -/
inductive Transition (s : State) : Instr → State → Prop where
  | pollShutdown (i : Instance) (b : List Byte) : s.insts[s.cur]? = some i → i.ctl = .poll b → i.shutdown = true →
      Transition s .pollShutdown (s.setCtl i .term)
  | pollContinue (i : Instance) (b : List Byte) : s.insts[s.cur]? = some i → i.ctl = .poll b → i.shutdown = false →
      Transition s .pollContinue (s.setCtl i (.read b))
  | rxData (i : Instance) (b bytes : List Byte) : s.insts[s.cur]? = some i → i.ctl = .read b →
      s.rx = some (.ok bytes) → bytes ≠ [] → s.overflows b bytes = false →
      Transition s .rxData (s.setCtl i (.drain (b ++ bytes))).endRead
  | rxOverflow (i : Instance) (b bytes : List Byte) : s.insts[s.cur]? = some i → i.ctl = .read b →
      s.rx = some (.ok bytes) → bytes ≠ [] → s.overflows b bytes = true →
      Transition s .rxData (s.setCtl i (.faulted b)).endRead
  | rxZero (i : Instance) (b : List Byte) : s.insts[s.cur]? = some i → i.ctl = .read b → s.rx = some (.ok []) →
      Transition s .rxZero (s.setCtl i (.poll b)).endRead
  | rxTimeout (i : Instance) (b : List Byte) : s.insts[s.cur]? = some i → i.ctl = .read b → s.rx = some .timeout →
      Transition s .rxTimeout (s.setCtl i (.poll [])).endRead
  | rxFatal (i : Instance) (b : List Byte) : s.insts[s.cur]? = some i → i.ctl = .read b → s.rx = some .fatal →
      Transition s .rxFatal (s.setCtl i .term).endRead
  | rxEosTimeout (i : Instance) (b : List Byte) : s.insts[s.cur]? = some i → i.ctl = .read b → s.rx = some .eos →
      s.params.eosAs = .timeout → Transition s .rxEos (s.setCtl i (.poll [])).endRead
  | rxEosFatal (i : Instance) (b : List Byte) : s.insts[s.cur]? = some i → i.ctl = .read b → s.rx = some .eos →
      s.params.eosAs = .fatal → Transition s .rxEos (s.setCtl i .term).endRead
  | rxEosZero (i : Instance) (b : List Byte) : s.insts[s.cur]? = some i → i.ctl = .read b → s.rx = some .eos →
      s.params.eosAs = .zero → Transition s .rxEos (s.setCtl i (.poll b)).endRead
  | drainTooShort (i : Instance) (b r : List Byte) : s.insts[s.cur]? = some i → i.ctl = .drain b →
      decodeBuf b = .tooShort r → Transition s .drainTooShort (s.setCtl i (.poll b))
  | drainBadCrc (i : Instance) (b r : List Byte) : s.insts[s.cur]? = some i → i.ctl = .drain b →
      decodeBuf b = .checksumMismatch r → Transition s .drainBadCrc (s.setCtl i (.poll r))
  | drainOk (i : Instance) (b r : List Byte) (f : Frame) : s.insts[s.cur]? = some i → i.ctl = .drain b →
      decodeBuf b = .ok f r → Transition s .drainOk (s.setCtl i (.push b ⟨i.portId, f⟩ r))
  | pushComplete (i : Instance) (b r : List Byte) (q : Request) : s.insts[s.cur]? = some i → i.ctl = .push b q r →
      s.room = true → Transition s .pushComplete (s.handOff i q r)
  | pushBlocked (i : Instance) (b r : List Byte) (q : Request) : s.insts[s.cur]? = some i → i.ctl = .push b q r →
      s.room = false → Transition s .pushBlocked s
  | termHalt (i : Instance) : s.insts[s.cur]? = some i → i.ctl = .term → Transition s .termHalt s

/-- A SEL instruction that completes is a transition. -/
theorem transition_of_exec {s t : State} {j : Instr} (hj : j ∈ transitions) (h : exec j s = .next t) :
    Transition s j t := by
  simp only [transitions, List.mem_cons, List.not_mem_nil, or_false] at hj
  rcases hj with rfl | rfl | rfl | rfl | rfl | rfl | rfl | rfl | rfl | rfl | rfl | rfl | rfl
  · obtain ⟨i, hi, h⟩ := onSelected_next h
    split at h
    · cases h; exact .pollShutdown i _ hi ‹_› ‹_›
    · cases h
  · obtain ⟨i, hi, h⟩ := onSelected_next h
    split at h
    · cases h; exact .pollContinue i _ hi ‹_› ‹_›
    · cases h
  · obtain ⟨i, b, r, hi, hc, hr, h⟩ := onRead_next h
    split at h
    · cases ho : s.overflows b (_ :: _) <;> rw [ho] at h <;> cases h
      · exact .rxData i b _ hi hc hr (by simp) ho
      · exact .rxOverflow i b _ hi hc hr (by simp) ho
    all_goals cases h
  · obtain ⟨i, b, r, hi, hc, hr, h⟩ := onRead_next h
    split at h
    · cases h; exact .rxZero i b hi hc hr
    all_goals cases h
  · obtain ⟨i, b, r, hi, hc, hr, h⟩ := onRead_next h
    split at h
    · cases h; exact .rxTimeout i b hi hc hr
    all_goals cases h
  · obtain ⟨i, b, r, hi, hc, hr, h⟩ := onRead_next h
    split at h
    · cases h; exact .rxFatal i b hi hc hr
    all_goals cases h
  · obtain ⟨i, b, r, hi, hc, hr, h⟩ := onRead_next h
    split at h
    · cases he : s.params.eosAs <;> rw [he] at h <;> cases h
      · exact .rxEosTimeout i b hi hc hr he
      · exact .rxEosFatal i b hi hc hr he
      · exact .rxEosZero i b hi hc hr he
    all_goals cases h
  · obtain ⟨i, hi, h⟩ := onSelected_next h
    split at h
    · split at h
      · cases h; exact .drainOk i _ _ _ hi ‹_› ‹_›
      all_goals cases h
    all_goals cases h
  · obtain ⟨i, hi, h⟩ := onSelected_next h
    split at h
    · split at h
      · cases h; exact .drainTooShort i _ _ hi ‹_› ‹_›
      all_goals cases h
    all_goals cases h
  · obtain ⟨i, hi, h⟩ := onSelected_next h
    split at h
    · split at h
      · cases h; exact .drainBadCrc i _ _ hi ‹_› ‹_›
      all_goals cases h
    all_goals cases h
  · obtain ⟨i, hi, h⟩ := onSelected_next h
    split at h
    · cases h; exact .pushComplete i _ _ _ hi ‹_› ‹_›
    · cases h
  · obtain ⟨i, hi, h⟩ := onSelected_next h
    split at h
    · cases h; exact .pushBlocked i _ _ _ hi ‹_› ‹_›
    · cases h
  · obtain ⟨i, hi, h⟩ := onSelected_next h
    split at h
    · cases h; exact .termHalt i hi ‹_›
    all_goals cases h

/-- A SEL word decodes to a transition. -/
theorem decode_sel_mem {w : BitVec 10} {j : Instr} (h : decodeCode (.sel w) = .ok j) : j ∈ transitions := by
  simp only [decodeCode] at h
  split at h
  · cases h
    rename_i hf
    simp only [findRow, Option.map_eq_some_iff] at hf
    obtain ⟨r, hr, rfl⟩ := hf
    have hm := List.mem_of_find?_eq_some hr
    revert hm r
    simp only [selRows, transitions]
    intro r _ hm
    fin_cases hm <;> simp
  · cases h

/-- A FRAME or OP code word decodes to an instruction of the codec. -/
theorem decode_codec {c : Code} {i : Instr} (hc : c.format ≠ .sel) (h : decodeCode c = .ok i) : isCodec i = true := by
  cases c with
  | frame fn =>
    simp only [decodeCode, Except.ok.injEq] at h
    subst h
    revert fn
    decide +kernel
  | op c =>
    simp only [decodeCode] at h
    split at h
    · cases h
      rename_i hf
      simp only [findRow, Option.map_eq_some_iff] at hf
      obtain ⟨r, hr, rfl⟩ := hf
      have hm := List.mem_of_find?_eq_some hr
      revert hm r
      simp only [opRows]
      intro r _ hm
      fin_cases hm <;> decide
    · cases h
  | sel w => exact absurd rfl hc

/-- A codec instruction that completes changes the codec's result or its CRC register only. -/
theorem codec_next {s t : State} {i : Instr} (hi : isCodec i = true) (h : exec i s = .next t) :
    (∃ v, t = s.returns v) ∨ ∃ c, t = s.setCrc c := by
  cases i with
  | frameFixed8_00_03 | frameFixed8_04_05 | frameVar_06_07 | frameVar_08_0F | frameVar_10_1F | frameVar_20_3F
  | frameVar_40_7F | frameVar_80_FF => exact .inl ⟨_, (onFrame_next h).2.2.2⟩
  | crc16 | decode | encode | setException | copy | getFunction | getData | setData =>
    exact .inl ⟨_, (Host.Outcome.next.inj h).symm⟩
  | crcCheck =>
    simp only [exec, execCrcCheck] at h
    split at h
    · exact .inl ⟨_, (Host.Outcome.next.inj h).symm⟩
    · cases h
  | crcInit | crcByte | crcBit => exact .inr ⟨_, (Host.Outcome.next.inj h).symm⟩
  | _ => exact absurd hi (by decide)

/-- What a step that gives a next state has done, by the move m that was made, in the state u without that move. -/
theorem step_cases {s t u : State} {m : Move} (hn : s.nextMove = (m, u)) (h : step s = .next t) :
    (∃ p i j, m = .run p ∧ u.insts[p]? = some i ∧ j ∈ transitions ∧ Transition (u.select p none) j t) ∨
    (∃ p i, m = .run p ∧ u.insts[p]? = some i ∧ ((∃ b, i.ctl = .read b) ∨ ∃ b, i.ctl = .faulted b) ∧ t = u) ∨
    (∃ p r i b j, m = .rx p r ∧ u.insts[p]? = some i ∧ i.ctl = .read b ∧ chunkFits u.params.readMax r = true ∧
      j ∈ transitions ∧ Transition (u.select p (some r)) j t) ∨
    (∃ a i, ((∃ op, m = .call op a) ∨ ∃ buf, m = .parse buf) ∧ isCodec i = true ∧
      exec i (u.withArgs a) = .next t) ∨
    (∃ q qs, m = .pop ∧ u.sink = q :: qs ∧ t = { u with sink := qs }) ∨
    (∃ p b i, m = .shutdown p b ∧ u.insts[p]? = some i ∧
      t = { u with insts := u.insts.set p { i with shutdown := b } }) ∨
    (∃ p i, m = .create p ∧ u.insts[p]? = some i ∧ i.ctl = .term ∧
      t = { u with insts := u.insts.set p { i with ctl := .poll [] } }) := by
  unfold step State.fetch at h
  rw [hn] at h
  simp only at h
  cases m with
  | run p =>
    rcases fetchRun_cases u p with ⟨_, e⟩ | ⟨i, hi, hc, e⟩ | ⟨i, hi, _, _, e⟩ <;> simp only [e] at h
    · cases h
    · cases h; exact .inr (.inl ⟨p, i, rfl, hi, hc, rfl⟩)
    · split at h
      · rename_i j hj
        exact .inl ⟨p, i, j, rfl, hi, decode_sel_mem hj, transition_of_exec (decode_sel_mem hj) h⟩
      · cases h
  | rx p r =>
    rcases fetchRx_cases u p r with ⟨_, e⟩ | ⟨i, hi, _, e⟩ | ⟨i, b, hi, _, _, e⟩ | ⟨i, b, hi, hc, hf, e⟩ <;>
      simp only [e] at h
    · cases h
    · cases h
    · cases h
    · split at h
      · rename_i j hj
        exact .inr (.inr (.inl ⟨p, r, i, b, j, rfl, hi, hc, hf, decode_sel_mem hj,
          transition_of_exec (decode_sel_mem hj) h⟩))
      · cases h
  | pop =>
    simp only [State.popSink] at h
    cases hs : u.sink with
    | nil => rw [hs] at h; cases h
    | cons q qs =>
      rw [hs] at h; cases h
      exact .inr (.inr (.inr (.inr (.inl ⟨q, qs, rfl, rfl, rfl⟩))))
  | shutdown p b =>
    simp only [State.driveShutdown] at h
    cases hi : u.insts[p]? with
    | none => rw [hi] at h; cases h
    | some i =>
      rw [hi] at h; cases h
      exact .inr (.inr (.inr (.inr (.inr (.inl ⟨p, b, i, rfl, hi, rfl⟩)))))
  | create p =>
    simp only [State.createInstance] at h
    cases hi : u.insts[p]? with
    | none => rw [hi] at h; cases h
    | some i =>
      rw [hi] at h
      cases hc : i.ctl <;> simp only [hc] at h <;> cases h
      exact .inr (.inr (.inr (.inr (.inr (.inr ⟨p, i, rfl, hi, hc, rfl⟩)))))
  | call op a =>
    simp only at h
    split at h
    · rename_i j hj
      exact .inr (.inr (.inr (.inl ⟨a, j, .inl ⟨op, rfl⟩, decode_codec (by simp [Code.format]) hj, h⟩)))
    · cases h
  | parse buf =>
    simp only [State.fetchParse] at h
    split at h
    · rename_i heq
      split at heq <;> cases heq
    · rename_i c u' heq
      split at h
      · rename_i j hj
        split at heq <;> cases heq
        all_goals
          exact .inr (.inr (.inr (.inl ⟨_, j, .inr ⟨buf, rfl⟩, decode_codec (by simp [Code.format]) hj, h⟩)))
      · cases h

/-- The moves not yet made, and the counter of free choices, are all that taking the next move changes. -/
theorem nextMove_frame {s u : State} {m : Move} (hn : s.nextMove = (m, u)) :
    u.params = s.params ∧ u.insts = s.insts ∧ u.sink = s.sink ∧ u.cur = s.cur ∧ u.rx = s.rx ∧ u.codec = s.codec := by
  unfold State.nextMove at hn
  cases he : s.env <;> rw [he] at hn <;> cases hn <;> simp

end Sys2Proof.Machine
end

