-- ==== Sys2Proof/Machine/Script.lean ====
section
/-! DEFINITION. Event scripts (R97, R98): the spec's notation for what the environment gives an instance, as data, and
how a script is played on the machine: each statement is one move, and between statements the instances take every step
they can take without the environment. The notation adds no behaviour (D20). Log entry 27. -/

namespace Sys2Proof.Machine

/-- The statements of R97. `rx` has at least one byte; a zero-byte read is `rx0`. -/
inductive Stmt where
  | rx (bytes : List Byte)
  | rx0
  | timeout
  | fatal
  | eos
  | shut (level : Bool)
  | pop
deriving DecidableEq, Repr

/-- `FRAME(a, f, d)` of R98: the bytes of ENCODE. -/
def frameBytes (a f : Byte) (d : List Byte) : List Byte := encodeFrame ⟨a, f, d⟩

/-- `RXF(a, f, d)` of R98. -/
def rxFrame (a f : Byte) (d : List Byte) : Stmt := .rx (frameBytes a f d)

/-- `GAP` of R98: an idle line seen as a read timeout. -/
def gap : Stmt := .timeout

/-- The move a statement for instance p makes (R97). -/
def stmtMove (p : Nat) : Stmt → Move
  | .rx bytes => .rx p (.ok bytes)
  | .rx0 => .rx p (.ok [])
  | .timeout => .rx p .timeout
  | .fatal => .rx p .fatal
  | .eos => .rx p .eos
  | .shut level => .shutdown p level
  | .pop => .pop

/-- Instance p can take a step without the environment: POLL, DRAIN, PUSH with room (R97). -/
def State.canRun (s : State) (p : Nat) : Bool :=
  match s.insts[p]? with
  | some i =>
    match i.ctl with
    | .poll _ | .drain _ => true
    | .push _ _ _ => s.room
    | .read _ | .term | .faulted _ => false
  | none => false

/-- Instance p takes every step it can take by itself, at most n of them. -/
def settle (p : Nat) : Nat → State → Out
  | 0, s => .next s
  | n + 1, s =>
    if s.canRun p then
      match step { s with env := .run p :: s.env } with
      | .next s' => settle p n s'
      | o => o
    else .next s

/-- More steps than instance p can take before it waits: each hand-off is two steps and shortens BUF (R175). -/
def State.fuel (s : State) (p : Nat) : Nat :=
  match s.insts[p]? with
  | some i => 2 * i.bufOrEmpty.length + 8
  | none => 0

/-- Every instance settles, the first first. -/
def settleAll : Nat → State → Out
  | 0, s => .next s
  | n + 1, s =>
    match settleAll n s with
    | .next s' => settle n (s'.fuel n) s'
    | o => o

/-- One statement for instance p and what follows it until every instance waits. -/
def playStmt (p : Nat) (st : Stmt) (s : State) : Out :=
  match step { s with env := stmtMove p st :: s.env } with
  | .next s' => settleAll s'.insts.length s'
  | o => o

/-- A script: pairs of an instance and a statement. -/
def play : List (Nat × Stmt) → State → Out
  | [], s => .next s
  | (p, st) :: rest, s =>
    match playStmt p st s with
    | .next s' => play rest s'
    | o => o

end Sys2Proof.Machine
end

