-- ==== Sys2Proof/Tests/Slice0.lean ====
section
/-! SUPPORT. The model's own tests: ill-formed terms that well-formedness refuses; for every instruction a word written
out from the encoding tables R84, R94, R95; the vectors of spec/95_test_vectors.md, one step each; and for every
obligation with hypotheses a state and operands that meet them. Expected results come from the spec's files. -/

namespace Sys2Proof.Tests

open Sys2Proof Sys2Proof.Machine

/-! ### Helpers -/

/-- One instance, on port 7, SINK_CAP = 2, as the vectors of 95_test_vectors.md 2.6 have it. -/
def world (c : Ctl) (rx : Option ReadResult := none) (sink : List Request := []) : State where
  params := ⟨2, none, none, none, .fatal⟩
  insts  := [⟨⟨7⟩, false, c⟩]
  sink   := sink
  cur    := 0
  rx     := rx
  codec  := Codec.reset
  env    := []
  tick   := 0

/-- The instance of `world` with its SHUTDOWN input at 1. -/
def shut (s : State) : State := s.withShutdown 0 true

/-- Finite bounds: BUF_CAP 8, READ_MAX 1, DATA_MAX 4. -/
def bounded (s : State) : State := { s with params := { s.params with bufCap := some 8, readMax := some 1, dataMax := some 4 } }

def withEnv (s : State) (ms : List Move) : State := { s with env := ms }

def eosAs (s : State) (e : EosAs) : State := { s with params := { s.params with eosAs := e } }

/-- The next state, if there is one. -/
def next? : Out → Option State
  | .next s => some s
  | .fault _ => none
  | .refused _ => none

/-- The registers of the instance after a step in which move m is made. -/
def ctlAfter (s : State) (m : Move) : Option Ctl :=
  (next? (step { s with env := [m] })).bind fun t => (t.insts[0]?).map Instance.ctl

/-- SINK after a step in which move m is made. -/
def sinkAfter (s : State) (m : Move) : Option (List Request) := (next? (step { s with env := [m] })).map State.sink

/-- What a codec instruction returns on these operands. -/
def answer (i : Instr) (bytes : List Byte) (f : Frame := default) (b : Byte := 0#8) : Option Result :=
  (next? (exec i ((world .term).withArgs ⟨bytes, f, b⟩))).map fun t => t.codec.result

/-- The CRC register after a micro-operation. -/
def crcAfter (i : Instr) (c : Word) (b : Byte := 0#8) : Option Word :=
  (next? (exec i (((world .term).setCrc c).withArgs ⟨[], default, b⟩))).map fun t => t.codec.crc

/-- The outcome is this refusal. -/
def refusedWith (r : Refusal) : Out → Bool
  | .refused r' => r == r'
  | .next _ => false
  | .fault _ => false

def f1 : List Byte := [0x01#8, 0x03#8, 0x00#8, 0x00#8, 0x00#8, 0x0A#8, 0xC5#8, 0xCD#8]
def f2 : List Byte := [0x02#8, 0x04#8, 0x00#8, 0x08#8, 0x00#8, 0x01#8, 0xB0#8, 0x3B#8]
def f3 : List Byte := [0x11#8, 0x05#8, 0x00#8, 0xAC#8, 0xFF#8, 0x00#8, 0x4E#8, 0x8B#8]
def v1 : List Byte := [0x01#8, 0x10#8, 0x00#8, 0x01#8, 0x00#8, 0x02#8, 0x04#8, 0x00#8, 0x0A#8, 0x01#8, 0x02#8, 0x92#8, 0x30#8]
def x1 : List Byte := [0x01#8, 0x83#8, 0x02#8, 0xC0#8, 0xF1#8]

/-! ### Well-formedness: one ill-formed term for each check -/

theorem test_wf_frameFixed8_00_03 : (Instr.frameFixed8_00_03 0x04#8).wf = false := by decide
theorem test_wf_frameFixed8_04_05 : (Instr.frameFixed8_04_05 0x06#8).wf = false := by decide
theorem test_wf_frameVar_06_07 : (Instr.frameVar_06_07 0x08#8).wf = false := by decide
theorem test_wf_frameVar_08_0F : (Instr.frameVar_08_0F 0x10#8).wf = false := by decide
theorem test_wf_frameVar_10_1F : (Instr.frameVar_10_1F 0x0F#8).wf = false := by decide
theorem test_wf_frameVar_20_3F : (Instr.frameVar_20_3F 0x40#8).wf = false := by decide
theorem test_wf_frameVar_40_7F : (Instr.frameVar_40_7F 0x80#8).wf = false := by decide
theorem test_wf_frameVar_80_FF : (Instr.frameVar_80_FF 0x7F#8).wf = false := by decide
theorem test_wf_sinkCap : (⟨0, none, none, none, .zero⟩ : Params).wf = false := by decide
theorem test_wf_readMax : (⟨1, none, some 0, none, .zero⟩ : Params).wf = false := by decide
theorem test_wf_run : Move.wf (world .term).params 1 (.run 1) = false := by decide
theorem test_wf_rx_port : Move.wf (world .term).params 1 (.rx 1 .timeout) = false := by decide
theorem test_wf_rx_chunk : Move.wf (bounded (world .term)).params 1 (.rx 0 (.ok [1#8, 2#8])) = false := by decide
theorem test_wf_shutdown : Move.wf (world .term).params 1 (.shutdown 1 true) = false := by decide
theorem test_wf_create : Move.wf (world .term).params 1 (.create 1) = false := by decide
theorem test_wf_crcCheck : Move.wf (world .term).params 1 (.call 0x1#4 ⟨[0#8], default, 0#8⟩) = false := by decide
theorem test_wf_reservedOp : Move.wf (world .term).params 1 (.call 0xC#4 ⟨[], default, 0#8⟩) = false := by decide

/-! ### Decoding: a word of every row, written out from R84, R94 and R95 -/

/-- The bytes decode to this instruction. -/
def decodesTo (f : Format) (bytes : List Byte) (i : Instr) : Bool :=
  match decodeBytes f bytes with
  | .ok j => i == j
  | .error _ => false

/-- The bytes are rejected for this reason. -/
def rejects (f : Format) (bytes : List Byte) (r : Reject) : Bool :=
  match decodeBytes f bytes with
  | .ok _ => false
  | .error r' => r == r'

-- R84: the pattern of function[7:0], with the x bits written as 1.
theorem test_decode_frameFixed8_00_03 : decodesTo .frame [0b00000011#8] (.frameFixed8_00_03 0b00000011#8) = true := by decide
theorem test_decode_frameFixed8_04_05 : decodesTo .frame [0b00000101#8] (.frameFixed8_04_05 0b00000101#8) = true := by decide
theorem test_decode_frameVar_06_07 : decodesTo .frame [0b00000111#8] (.frameVar_06_07 0b00000111#8) = true := by decide
theorem test_decode_frameVar_08_0F : decodesTo .frame [0b00001111#8] (.frameVar_08_0F 0b00001111#8) = true := by decide
theorem test_decode_frameVar_10_1F : decodesTo .frame [0b00011111#8] (.frameVar_10_1F 0b00011111#8) = true := by decide
theorem test_decode_frameVar_20_3F : decodesTo .frame [0b00111111#8] (.frameVar_20_3F 0b00111111#8) = true := by decide
theorem test_decode_frameVar_40_7F : decodesTo .frame [0b01111111#8] (.frameVar_40_7F 0b01111111#8) = true := by decide
theorem test_decode_frameVar_80_FF : decodesTo .frame [0b11111111#8] (.frameVar_80_FF 0b11111111#8) = true := by decide
-- R94: the code in the low half of a byte.
theorem test_decode_crc16 : decodesTo .op [0b00000000#8] .crc16 = true := by decide
theorem test_decode_crcCheck : decodesTo .op [0b00000001#8] .crcCheck = true := by decide
theorem test_decode_decode : decodesTo .op [0b00000010#8] .decode = true := by decide
theorem test_decode_encode : decodesTo .op [0b00000011#8] .encode = true := by decide
theorem test_decode_setException : decodesTo .op [0b00000100#8] .setException = true := by decide
theorem test_decode_copy : decodesTo .op [0b00000101#8] .copy = true := by decide
theorem test_decode_getFunction : decodesTo .op [0b00000110#8] .getFunction = true := by decide
theorem test_decode_getData : decodesTo .op [0b00000111#8] .getData = true := by decide
theorem test_decode_setData : decodesTo .op [0b00001000#8] .setData = true := by decide
theorem test_decode_crcInit : decodesTo .op [0b00001001#8] .crcInit = true := by decide
theorem test_decode_crcByte : decodesTo .op [0b00001010#8] .crcByte = true := by decide
theorem test_decode_crcBit : decodesTo .op [0b00001011#8] .crcBit = true := by decide
-- R95: SEL[7:0] then SEL[9:8]; PHASE in [9:7], SHUT [6], RXS [5:4], NZ [3], ERR [2:1], ROOM [0]; a bit outside the row's mask
-- is written as 1.
theorem test_decode_pollShutdown : decodesTo .sel [0b01111111#8, 0b00000000#8] .pollShutdown = true := by decide
theorem test_decode_pollContinue : decodesTo .sel [0b00111111#8, 0b00000000#8] .pollContinue = true := by decide
theorem test_decode_rxData : decodesTo .sel [0b11001111#8, 0b00000000#8] .rxData = true := by decide
theorem test_decode_rxZero : decodesTo .sel [0b11000111#8, 0b00000000#8] .rxZero = true := by decide
theorem test_decode_rxTimeout : decodesTo .sel [0b11011111#8, 0b00000000#8] .rxTimeout = true := by decide
theorem test_decode_rxFatal : decodesTo .sel [0b11101111#8, 0b00000000#8] .rxFatal = true := by decide
theorem test_decode_rxEos : decodesTo .sel [0b11111111#8, 0b00000000#8] .rxEos = true := by decide
theorem test_decode_drainOk : decodesTo .sel [0b01111001#8, 0b00000001#8] .drainOk = true := by decide
theorem test_decode_drainTooShort : decodesTo .sel [0b01111011#8, 0b00000001#8] .drainTooShort = true := by decide
theorem test_decode_drainBadCrc : decodesTo .sel [0b01111101#8, 0b00000001#8] .drainBadCrc = true := by decide
theorem test_decode_pushComplete : decodesTo .sel [0b11111111#8, 0b00000001#8] .pushComplete = true := by decide
theorem test_decode_pushBlocked : decodesTo .sel [0b11111110#8, 0b00000001#8] .pushBlocked = true := by decide
theorem test_decode_termHalt : decodesTo .sel [0b01111111#8, 0b00000010#8] .termHalt = true := by decide
theorem test_reject_op : rejects .op [0b00001100#8] .reservedOp = true := by decide
theorem test_reject_phase5 : rejects .sel [0b10000000#8, 0b00000010#8] .noSelRow = true := by decide
theorem test_reject_err3 : rejects .sel [0b00000110#8, 0b00000001#8] .noSelRow = true := by decide
theorem test_reject_upper_bits : rejects .sel [0x00#8, 0x04#8] .badBytes = true := by decide
theorem test_reject_short : rejects .sel [0x00#8] .badBytes = true := by decide

/-- Two rows share no word when some bit under both masks differs. -/
def disjoint {w : Nat} (a b : Row w) : Bool := a.mask &&& b.mask &&& (a.value ^^^ b.value) != 0#w

theorem test_opRows_disjoint : opRows.Pairwise (fun a b => disjoint a b = true) := by decide
theorem test_selRows_disjoint : selRows.Pairwise (fun a b => disjoint a b = true) := by decide

/-! ### The codec: vectors of 95_test_vectors.md 2.1 to 2.5 -/

/-- R114, V-C6: "123456789". -/
theorem test_crc16 :
    answer .crc16 [0x31#8, 0x32#8, 0x33#8, 0x34#8, 0x35#8, 0x36#8, 0x37#8, 0x38#8, 0x39#8] = some (.word 0x4B37#16) := by
  decide +kernel
/-- R114: CRC16 of nothing is the initial value. -/
theorem test_crc16_empty :
    answer .crc16 [] = some (.word 0xFFFF#16) := by
  decide +kernel
/-- R115: the rule's example. -/
theorem test_crcCheck :
    answer .crcCheck f1 = some (.flag true) := by
  decide +kernel
/-- R115: the same with the checksum bytes swapped. -/
theorem test_crcCheck_swapped :
    answer .crcCheck [0x01#8, 0x03#8, 0x00#8, 0x00#8, 0x00#8, 0x0A#8, 0xCD#8, 0xC5#8] = some (.flag false) := by
  decide +kernel
/-- R111. -/
theorem test_crcInit :
    crcAfter .crcInit 0x1234#16 = some 0xFFFF#16 := by
  decide +kernel
/-- R112: corner case. -/
theorem test_crcBit_one :
    crcAfter .crcBit 0x0001#16 = some 0xA001#16 := by
  decide +kernel
/-- R112: example. -/
theorem test_crcBit_zero :
    crcAfter .crcBit 0xFFFE#16 = some 0x7FFF#16 := by
  decide +kernel
/-- R113: example. -/
theorem test_crcByte :
    crcAfter .crcByte 0xFFFF#16 0x01#8 = some 0x807E#16 := by
  decide +kernel
/-- R113: corner case. -/
theorem test_crcByte_zero :
    crcAfter .crcByte 0xFFFF#16 0x00#8 = some 0x40BF#16 := by
  decide +kernel
/-- R131: the rule's example. -/
theorem test_decode_op_ok :
    answer .decode (f1 ++ [0x02#8]) = some (.decoded (.ok ⟨0x01#8, 0x03#8, [0x00#8, 0x00#8, 0x00#8, 0x0A#8]⟩ [0x02#8])) := by
  decide +kernel
/-- V-D22: the trailing byte goes too. -/
theorem test_decode_op_bad :
    answer .decode [0x01#8, 0x05#8, 0x00#8, 0x01#8, 0x00#8, 0x03#8, 0x09#8, 0xCA#8, 0x9F#8] = some (.decoded (.checksumMismatch [])) := by
  decide +kernel
/-- V-D17: five bytes with a right checksum, function 3. -/
theorem test_row_00_03 :
    answer (.frameFixed8_00_03 0x03#8) [0x01#8, 0x03#8, 0x07#8, 0x61#8, 0x32#8] = some (.decoded (.tooShort [0x01#8, 0x03#8, 0x07#8, 0x61#8, 0x32#8])) := by
  decide +kernel
/-- V-D9. -/
theorem test_row_04_05 :
    answer (.frameFixed8_04_05 0x05#8) [0x01#8, 0x05#8, 0x00#8, 0x01#8, 0x00#8, 0x03#8, 0xDC#8, 0x0B#8, 0xAA#8] = some (.decoded (.ok ⟨0x01#8, 0x05#8, [0x00#8, 0x01#8, 0x00#8, 0x03#8]⟩ [0xAA#8])) := by
  decide +kernel
/-- V-D10: one trailing byte. -/
theorem test_row_06_07 :
    answer (.frameVar_06_07 0x06#8) [0x01#8, 0x06#8, 0x00#8, 0x01#8, 0x00#8, 0x03#8, 0x98#8, 0x0B#8, 0xAA#8] = some (.decoded (.checksumMismatch [])) := by
  decide +kernel
/-- V-D31. -/
theorem test_row_08_0F :
    answer (.frameVar_08_0F 0x0F#8) [0x0A#8, 0x0F#8, 0x00#8, 0x13#8, 0x00#8, 0x0A#8, 0x02#8, 0xCD#8, 0x01#8, 0x01#8, 0xFB#8] = some (.decoded (.ok ⟨0x0A#8, 0x0F#8, [0x00#8, 0x13#8, 0x00#8, 0x0A#8, 0x02#8, 0xCD#8, 0x01#8]⟩ [])) := by
  decide +kernel
/-- V-D6. -/
theorem test_row_10_1F :
    answer (.frameVar_10_1F 0x10#8) v1 = some (.decoded (.ok ⟨0x01#8, 0x10#8, [0x00#8, 0x01#8, 0x00#8, 0x02#8, 0x04#8, 0x00#8, 0x0A#8, 0x01#8, 0x02#8]⟩ [])) := by
  decide +kernel
/-- V-E12. -/
theorem test_row_20_3F :
    answer (.frameVar_20_3F 0x2B#8) [0xF7#8, 0x2B#8, 0x0E#8, 0x01#8, 0x00#8, 0xB8#8, 0x62#8] = some (.decoded (.ok ⟨0xF7#8, 0x2B#8, [0x0E#8, 0x01#8, 0x00#8]⟩ [])) := by
  decide +kernel
/-- R131 on five bytes; the checksum 0xC3CA computed by hand from R110. -/
theorem test_row_40_7F :
    answer (.frameVar_40_7F 0x64#8) [0x01#8, 0x64#8, 0x05#8, 0xCA#8, 0xC3#8] = some (.decoded (.ok ⟨0x01#8, 0x64#8, [0x05#8]⟩ [])) := by
  decide +kernel
/-- V-D8. -/
theorem test_row_80_FF :
    answer (.frameVar_80_FF 0xFF#8) [0xFF#8, 0xFF#8, 0xFF#8, 0x40#8, 0x40#8] = some (.decoded (.ok ⟨0xFF#8, 0xFF#8, [0xFF#8]⟩ [])) := by
  decide +kernel
/-- R84: a row whose function byte is not the buffer's. -/
theorem test_row_not_selected :
    refusedWith .notSelected (exec (.frameVar_06_07 0x06#8) ((world .term).withArgs ⟨f1, default, 0#8⟩)) = true := by
  decide +kernel
/-- V-E1. -/
theorem test_encode :
    answer .encode [] ⟨0x01#8, 0x03#8, [0x00#8, 0x00#8, 0x00#8, 0x0A#8]⟩ = some (.bytes f1) := by
  decide +kernel
/-- Data beyond a finite DATA_MAX: ENCODE completes (log entry 22). -/
theorem test_encode_beyond :
    (next? (exec .encode ((bounded (world .term)).withArgs ⟨[], ⟨1#8, 6#8, [1#8, 2#8, 3#8, 4#8, 5#8]⟩, 0#8⟩))).isSome = true := rfl

/-- V-X1. -/
theorem test_setException :
    answer .setException [] ⟨0x01#8, 0x03#8, [0x00#8, 0x00#8, 0x00#8, 0x0A#8]⟩ 0x02#8 = some (.frame ⟨0x01#8, 0x83#8, [0x02#8]⟩) := by
  decide +kernel
/-- V-X3. -/
theorem test_setException_again :
    answer .setException [] ⟨0x01#8, 0x83#8, [0x02#8]⟩ 0xFF#8 = some (.frame ⟨0x01#8, 0x83#8, [0xFF#8]⟩) := by
  decide +kernel
/-- V-A6, the copy. -/
theorem test_copy :
    answer .copy [] ⟨0x01#8, 0x03#8, [0x00#8, 0x00#8, 0x00#8, 0x0A#8]⟩ = some (.frame ⟨0x01#8, 0x03#8, [0x00#8, 0x00#8, 0x00#8, 0x0A#8]⟩) := by
  decide +kernel
/-- V-A1. -/
theorem test_getFunction :
    answer .getFunction [] ⟨0x01#8, 0x83#8, [0x02#8]⟩ = some (.byte 0x83#8) := by
  decide +kernel
/-- V-A2. -/
theorem test_getData :
    answer .getData [] ⟨0x01#8, 0x10#8, [0x00#8, 0x01#8, 0x00#8, 0x02#8, 0x04#8, 0x00#8, 0x0A#8, 0x01#8, 0x02#8]⟩ = some (.bytes [0x00#8, 0x01#8, 0x00#8, 0x02#8, 0x04#8, 0x00#8, 0x0A#8, 0x01#8, 0x02#8]) := by
  decide +kernel
/-- V-A4. -/
theorem test_setData :
    answer .setData [0x02#8, 0x00#8, 0x07#8] ⟨0x01#8, 0x03#8, [0x00#8, 0x00#8, 0x00#8, 0x0A#8]⟩ = some (.frame ⟨0x01#8, 0x03#8, [0x02#8, 0x00#8, 0x07#8]⟩) := by
  decide +kernel
/-- Data beyond a finite DATA_MAX: SET_DATA completes and keeps address and function (log entry 22). -/
theorem test_setData_beyond :
    (next? (exec .setData ((bounded (world .term)).withArgs ⟨[1#8, 2#8, 3#8, 4#8, 5#8], ⟨9#8, 3#8, []⟩, 0#8⟩))).map
      (fun t => match t.codec.result with | .frame f => (f.address, f.function) | _ => (0#8, 0#8)) = some (9#8, 3#8) := rfl

/-- R223, D28: a move for an instance that does not exist is refused (log entry 18). -/
theorem test_noSuchInstance : refusedWith .noSuchInstance (step (withEnv (world .term) [.run 1])) = true := rfl

/-! ### The reassembler: vectors V-T1 to V-T19 of 95_test_vectors.md 2.6, each one step -/

/-- V-T1, POLL.SHUTDOWN. -/
theorem test_T1 :
    ctlAfter (shut (world (.poll [0x01#8, 0x03#8]))) (.run 0) = some .term := by
  decide +kernel
/-- V-T2, POLL.CONTINUE. -/
theorem test_T2 :
    ctlAfter (world (.poll [0x01#8, 0x03#8])) (.run 0) = some (.read [0x01#8, 0x03#8]) := by
  decide +kernel
/-- V-T3, RX.TIMEOUT. -/
theorem test_T3 :
    ctlAfter (world (.read [0x01#8, 0x03#8, 0x00#8])) (.rx 0 .timeout) = some (.poll []) := by
  decide +kernel
/-- V-T5, RX.FATAL. -/
theorem test_T5 :
    ctlAfter (world (.read [0x01#8, 0x03#8, 0x00#8])) (.rx 0 .fatal) = some .term := by
  decide +kernel
/-- V-T6, RX.DATA. -/
theorem test_T6 :
    ctlAfter (world (.read [0x01#8, 0x03#8, 0x00#8])) (.rx 0 (.ok [0x00#8, 0x00#8, 0x0A#8, 0xC5#8, 0xCD#8])) = some (.drain f1) := by
  decide +kernel
/-- V-T8, RX.ZERO. -/
theorem test_T8 :
    ctlAfter (world (.read [0x01#8, 0x03#8, 0x00#8])) (.rx 0 (.ok [])) = some (.poll [0x01#8, 0x03#8, 0x00#8]) := by
  decide +kernel
/-- V-T9 and V-T11, RX.EOS. -/
theorem test_T9_T11 :
    ctlAfter (eosAs (world (.read [0x01#8])) .timeout) (.rx 0 .eos) = some (.poll []) ∧
      ctlAfter (eosAs (world (.read [0x01#8])) .zero) (.rx 0 .eos) = some (.poll [0x01#8]) := by
  decide +kernel
/-- V-T10, RX.EOS. -/
theorem test_T10 :
    ctlAfter (eosAs (world (.read [0x01#8])) .fatal) (.rx 0 .eos) = some .term := by
  decide +kernel
/-- V-T12, DRAIN.TOOSHORT. -/
theorem test_T12 :
    ctlAfter (world (.drain [0x01#8, 0x03#8, 0x00#8, 0x00#8, 0x00#8, 0x0A#8, 0xC5#8])) (.run 0) = some (.poll [0x01#8, 0x03#8, 0x00#8, 0x00#8, 0x00#8, 0x0A#8, 0xC5#8]) := by
  decide +kernel
/-- V-T14, DRAIN.BADCRC. -/
theorem test_T14 :
    ctlAfter (world (.drain ([0x01#8, 0x03#8, 0x00#8, 0x00#8, 0x00#8, 0x0A#8, 0xC5#8, 0xCE#8] ++ f1))) (.run 0) = some (.poll []) := by
  decide +kernel
/-- V-T15, DRAIN.OK. -/
theorem test_T15 :
    ctlAfter (world (.drain (f1 ++ [0x02#8]))) (.run 0) =
      some (.push (f1 ++ [0x02#8]) ⟨⟨7⟩, ⟨0x01#8, 0x03#8, [0x00#8, 0x00#8, 0x00#8, 0x0A#8]⟩⟩ [0x02#8]) := by
  decide +kernel
/-- V-T16, PUSH.COMPLETE: the registers. -/
theorem test_T16 :
    ctlAfter (world (.push (f1 ++ [0x02#8]) ⟨⟨7⟩, ⟨0x01#8, 0x03#8, [0x00#8, 0x00#8, 0x00#8, 0x0A#8]⟩⟩ [0x02#8])) (.run 0) = some (.drain [0x02#8]) := by
  decide +kernel
/-- V-T16, PUSH.COMPLETE: SINK. -/
theorem test_T16_sink :
    sinkAfter (world (.push (f1 ++ [0x02#8]) ⟨⟨7⟩, ⟨0x01#8, 0x03#8, [0x00#8, 0x00#8, 0x00#8, 0x0A#8]⟩⟩ [0x02#8])) (.run 0) =
      some [⟨⟨7⟩, ⟨0x01#8, 0x03#8, [0x00#8, 0x00#8, 0x00#8, 0x0A#8]⟩⟩] := by
  decide +kernel
/-- V-T17, PUSH.BLOCKED. -/
theorem test_T17 :
    ctlAfter (world (.push f1 ⟨⟨7⟩, ⟨0x01#8, 0x03#8, [0x00#8, 0x00#8, 0x00#8, 0x0A#8]⟩⟩ []) none [default, default]) (.run 0) = some (.push f1 ⟨⟨7⟩, ⟨0x01#8, 0x03#8, [0x00#8, 0x00#8, 0x00#8, 0x0A#8]⟩⟩ []) ∧
      sinkAfter (world (.push f1 ⟨⟨7⟩, ⟨0x01#8, 0x03#8, [0x00#8, 0x00#8, 0x00#8, 0x0A#8]⟩⟩ []) none [default, default]) (.run 0) = some [default, default] := by
  decide +kernel
/-- V-T18, TERM.HALT. -/
theorem test_T18 :
    ctlAfter (shut (world .term)) (.run 0) = some .term := by
  decide +kernel
/-- V-T19, RX.DATA with BufferOverflow. -/
theorem test_T19 :
    ctlAfter { world (.read [0x01#8, 0x03#8, 0x00#8, 0x00#8, 0x00#8, 0x0A#8, 0xC5#8]) with params := ⟨2, some 8, none, none, .fatal⟩ } (.rx 0 (.ok [0xCD#8, 0x02#8])) =
      some (.faulted [0x01#8, 0x03#8, 0x00#8, 0x00#8, 0x00#8, 0x0A#8, 0xC5#8]) := by
  decide +kernel
/-- R215: the head goes. -/
theorem test_pop :
    sinkAfter (world .term none [⟨⟨7⟩, ⟨0x01#8, 0x03#8, [0x00#8, 0x00#8, 0x00#8, 0x0A#8]⟩⟩, default]) .pop = some [default] := by
  decide +kernel

/-! ### The host's probe, after reset -/

theorem test_probe_op : decodeTableWord 4 0x2 = some .decode ∧ (next? (step (State.reset.withFetchWord 4 0x2))).isSome = true := by
  decide +kernel
theorem test_probe_frame :
    decodeTableWord 8 0x80 = some (.frameVar_80_FF 0x80#8) ∧ (next? (step (State.reset.withFetchWord 8 0x80))).isSome = true := by
  decide +kernel
theorem test_probe_sel : decodeTableWord 16 0x088 = some .rxData ∧ (next? (step (State.reset.withFetchWord 16 0x088))).isSome = true := by
  decide +kernel

/-! ### Scripts: the frame of R98 -/

theorem test_frameBytes : frameBytes 0x01#8 0x03#8 [0x00#8, 0x00#8, 0x00#8, 0x0A#8] = f1 := by decide +kernel


/-! ### Witnesses: for every obligation with hypotheses, a state and operands that meet them, clause by clause at the
ends of its ranges -/

/-- The Request of f1 on port 7. -/
def q1 : Request := ⟨⟨7⟩, ⟨0x01#8, 0x03#8, [0x00#8, 0x00#8, 0x00#8, 0x0A#8]⟩⟩

/-- The registers of the instance of `world`. -/
def inst (c : Ctl) : Instance := ⟨⟨7⟩, false, c⟩

/-- Seven bytes with function byte 5: the longest buffer at rest (R66). -/
def seven : List Byte := [0x01#8, 0x05#8, 0x00#8, 0x01#8, 0x00#8, 0x03#8, 0xDC#8]

/-- Five bytes with function byte 6 and a wrong checksum (V-D24). -/
def badVar : List Byte := [0x00#8, 0x06#8, 0x00#8, 0x00#8, 0x00#8]

/-- Five bytes with function byte 6 and a right checksum (V-D30). -/
def okVar : List Byte := [0x01#8, 0x06#8, 0x07#8, 0x62#8, 0x62#8]

/-- f1 with a wrong checksum (V-D21). -/
def badFixed : List Byte := [0x01#8, 0x03#8, 0x00#8, 0x00#8, 0x00#8, 0x0A#8, 0xC5#8, 0xCE#8]

/-- The invariant of a state with one instance on port 7 and a SINK of Requests of that port. -/
theorem inv_of {s : State} {c : Ctl} (hp : s.params.wf = true) (hi : s.insts = [inst c]) (hs : s.sink.length ≤ s.params.sinkCap)
    (hv : s.sink.all (fun q => codecValid q.frame) = true) (hq : s.sink.all (fun q => q.port == ⟨7⟩) = true)
    (hok : (inst c).ok s.params = true) : s.Inv where
  params := hp
  portsExist := by simp [hi]
  portsApart := by simp [hi]
  sinkFits := hs
  sinkValid := by simpa using hv
  sinkPorts := by simpa [hi, inst] using hq
  instsOk := by simpa [hi] using hok

theorem witness_StepKeepsInvariant :
    (withEnv (world (.push f1 q1 []) none [q1]) [.run 0]).Inv ∧
    (next? (step (withEnv (world (.push f1 q1 []) none [q1]) [.run 0]))).isSome = true :=
  ⟨inv_of (c := .push f1 q1 []) rfl rfl (by decide) (by decide +kernel) (by decide +kernel) (by decide +kernel), by decide +kernel⟩

theorem witness_BufferBounds_rest : (world (.read seven)).Inv ∧ inst (.read seven) ∈ (world (.read seven)).insts :=
  ⟨inv_of (c := .read seven) rfl rfl (by decide) rfl rfl (by decide +kernel), by decide⟩

theorem witness_BufferBounds_drain : (bounded (world (.drain f1))).Inv ∧ inst (.drain f1) ∈ (bounded (world (.drain f1))).insts ∧
    (bounded (world (.drain f1))).params.readMax = some 1 :=
  ⟨inv_of (c := .drain f1) rfl rfl (by decide) rfl rfl (by decide +kernel), by decide, rfl⟩

theorem witness_BufferBounds_push : (bounded (world (.push f1 q1 []))).Inv ∧
    inst (.push f1 q1 []) ∈ (bounded (world (.push f1 q1 []))).insts :=
  ⟨inv_of (c := .push f1 q1 []) rfl rfl (by decide) rfl rfl (by decide +kernel), by decide⟩

theorem witness_LargeBufferNeverOverflows :
    (withEnv (bounded (world (.read seven))) [.rx 0 (.ok [0x0B#8])]).Inv ∧
    (bounded (world (.read seven))).params.bufCap = some 8 ∧ (bounded (world (.read seven))).params.readMax = some 1 ∧ 7 + 1 ≤ 8 ∧
    (∀ i ∈ (bounded (world (.read seven))).insts, ∀ b, i.ctl ≠ .faulted b) ∧
    (next? (step (withEnv (bounded (world (.read seven))) [.rx 0 (.ok [0x0B#8])]))).isSome = true :=
  ⟨inv_of (c := .read seven) rfl rfl (by decide) rfl rfl (by decide +kernel), rfl, rfl, by decide,
    by simp [bounded, world], by decide +kernel⟩

theorem witness_CrcBitShiftsAndXors :
    [0x0000#16, 0x0001#16, 0xFFFF#16, 0xFFFE#16].all (fun c => (next? (exec .crcBit ((world .term).setCrc c))).isSome) = true := by
  decide +kernel

theorem witness_CrcByteIsXorThenEightBits :
    (crcAfter .crcByte 0xFFFF#16 0x00#8).isSome = true ∧ (crcAfter .crcByte 0xFFFF#16 0x01#8).isSome = true := by
  decide +kernel

theorem witness_CrcCheckComparesLastTwoBytes :
    ((world .term).withArgs ⟨[0xFF#8, 0xFF#8], default, 0#8⟩).codec.args.bytes = [] ++ [0xFF#8, 0xFF#8] ∧
    ((world .term).withArgs ⟨[0xFF#8], default, 0#8⟩).codec.args.bytes.length < 2 := by decide

theorem witness_ZeroResidueIsTheSameVerdict :
    2 ≤ ((world .term).withArgs ⟨[0xFF#8, 0xFF#8], default, 0#8⟩).codec.args.bytes.length := by decide

theorem witness_DecodeByCase :
    [0x01#8, 0x03#8, 0x40#8, 0x21#8].length < 5 ∧
    (5 ≤ seven.length ∧ seven.length < 8 ∧ (seven.getD 1 0#8).toNat ≤ 5) ∧
    (8 ≤ f3.length ∧ (f3.getD 1 0#8).toNat ≤ 5 ∧ crcCheck (f3.take 8) = true) ∧
    (8 ≤ badFixed.length ∧ (badFixed.getD 1 0#8).toNat ≤ 5 ∧ crcCheck (badFixed.take 8) = false) ∧
    (5 ≤ okVar.length ∧ 6 ≤ (okVar.getD 1 0#8).toNat ∧ crcCheck okVar = true) ∧
    (5 ≤ badVar.length ∧ 6 ≤ (badVar.getD 1 0#8).toNat ∧ crcCheck badVar = false) := by decide +kernel

theorem witness_FrameRowsAgreeWithDecode :
    5 ≤ okVar.length ∧ okVar.getD 1 0#8 = 0x06#8 ∧
    [Instr.frameFixed8_00_03 0x00#8, .frameFixed8_00_03 0x03#8, .frameFixed8_04_05 0x04#8, .frameFixed8_04_05 0x05#8,
      .frameVar_06_07 0x06#8, .frameVar_06_07 0x07#8, .frameVar_08_0F 0x08#8, .frameVar_08_0F 0x0F#8,
      .frameVar_10_1F 0x10#8, .frameVar_10_1F 0x1F#8, .frameVar_20_3F 0x20#8, .frameVar_20_3F 0x3F#8,
      .frameVar_40_7F 0x40#8, .frameVar_40_7F 0x7F#8, .frameVar_80_FF 0x80#8, .frameVar_80_FF 0xFF#8].all Instr.wf = true := by
  decide

theorem witness_EncodeAppendsLittleEndianCrc :
    (∀ m, (bounded (world .term)).params.dataMax = some m → [1#8, 2#8, 3#8, 4#8].length ≤ m) ∧
    (∃ m, (bounded (world .term)).params.dataMax = some m ∧ m < [1#8, 2#8, 3#8, 4#8, 5#8].length) :=
  ⟨by simp [bounded, world], 4, by simp [bounded, world]⟩

theorem witness_CodecRoundTripExactlyForCodecValid :
    (∀ m, (bounded (world .term)).params.dataMax = some m → q1.frame.data.length ≤ m) ∧ (world .term).params.dataMax = none ∧
    answer .encode [] q1.frame = some (.bytes f1) ∧ answer .decode f1 = some (.decoded (.ok q1.frame [])) ∧
    answer .encode [] ⟨0x01#8, 0x03#8, []⟩ = some (.bytes [0x01#8, 0x03#8, 0x40#8, 0x21#8]) ∧
    answer .decode [0x01#8, 0x03#8, 0x40#8, 0x21#8] = some (.decoded (.tooShort [0x01#8, 0x03#8, 0x40#8, 0x21#8])) :=
  ⟨by simp [bounded, world, q1], rfl, by decide +kernel⟩

theorem witness_DecodedBufferIsEncodingAndRemainder :
    decodeBuf (f1 ++ [0x02#8]) = .ok q1.frame [0x02#8] ∧ decodeBuf okVar = .ok ⟨0x01#8, 0x06#8, [0x07#8]⟩ [] := by
  decide +kernel

theorem witness_TrailingBytesOnlyInFixedClass :
    (decodeBuf f3 = .ok ⟨0x11#8, 0x05#8, [0x00#8, 0xAC#8, 0xFF#8, 0x00#8]⟩ [] ∧ (0x05#8 : Byte).toNat ≤ 5) ∧
    (decodeBuf okVar = .ok ⟨0x01#8, 0x06#8, [0x07#8]⟩ [] ∧ 6 ≤ (0x06#8 : Byte).toNat ∧ [0x00#8] ≠ []) := by
  decide +kernel

theorem witness_TwoFixedFramesSplit :
    f1.length = 8 ∧ f3.length = 8 ∧ (f1.getD 1 0#8).toNat ≤ 5 ∧ (f3.getD 1 0#8).toNat ≤ 5 ∧ crcCheck f1 = true ∧
    crcCheck f3 = true := by decide +kernel

theorem witness_CorruptChecksumEmptiesRemainder :
    ([0x01#8, 0x06#8, 0x80#8, 0x22#8].length < 5 ∧ seven.length < 8 ∧ (seven.getD 1 0#8).toNat ≤ 5) ∧
    (5 ≤ badFixed.length ∧ (badFixed.getD 1 0#8).toNat ≤ 5 ∧ 8 ≤ badFixed.length ∧ crcCheck (badFixed.take 8) = false) ∧
    (5 ≤ badVar.length ∧ 6 ≤ (badVar.getD 1 0#8).toNat ∧ crcCheck badVar = false) := by decide +kernel

theorem witness_SetExceptionSetsBitSevenAndCode : (⟨0x01#8, 0x83#8, [0x02#8]⟩ : Frame).function.getLsbD 7 = true := by decide

theorem witness_AccessorsReadAndReplace :
    (∀ m, (bounded (world .term)).params.dataMax = some m → [1#8, 2#8, 3#8, 4#8].length ≤ m) ∧
    (∃ m, (bounded (world .term)).params.dataMax = some m ∧ m < [1#8, 2#8, 3#8, 4#8, 5#8].length) :=
  ⟨by simp [bounded, world], 4, by simp [bounded, world]⟩

theorem witness_CodecTouchesNoReassembler :
    [Instr.crc16, .crcInit, .crcByte, .crcBit, .copy].all (fun i => isCodec i && (next? (exec i (world .term))).isSome) = true := by
  decide +kernel

theorem witness_PollShutdownTerminates :
    (shut (world (.poll seven))).insts[0]? = some { inst (.poll seven) with shutdown := true } := by decide

theorem witness_PollContinueIssuesRead :
    (world (.poll seven)).insts[0]? = some (inst (.poll seven)) ∧ (inst (.poll seven)).shutdown = false := by decide

theorem witness_RxTimeoutDiscardsBuffer :
    (world (.read seven) (some .timeout)).insts[0]? = some (inst (.read seven)) ∧
    (world (.read seven) (some .timeout)).rx = some .timeout := by decide

theorem witness_RxFatalTerminates :
    (world (.read seven) (some .fatal)).insts[0]? = some (inst (.read seven)) ∧
    (world (.read seven) (some .fatal)).rx = some .fatal := by decide

theorem witness_RxDataAppendsOrOverflows :
    (bounded (world (.read seven) (some (.ok [0x0B#8])))).insts[0]? = some (inst (.read seven)) ∧
    (bounded (world (.read seven) (some (.ok [0x0B#8])))).rx = some (.ok [0x0B#8]) ∧
    (∀ c, (bounded (world .term)).params.bufCap = some c → seven.length + [0x0B#8].length ≤ c) ∧
    (bounded (world .term)).params.bufCap = some 8 ∧ 8 < seven.length + [0x0B#8, 0x00#8].length :=
  ⟨by decide, by decide, by simp [bounded, world, seven], by decide, by decide⟩

theorem witness_RxZeroKeepsBuffer :
    (world (.read seven) (some (.ok []))).insts[0]? = some (inst (.read seven)) ∧
    (world (.read seven) (some (.ok []))).rx = some (.ok []) := by decide

theorem witness_RxEosFollowsParameter :
    (world (.read seven) (some .eos)).insts[0]? = some (inst (.read seven)) ∧ (world (.read seven) (some .eos)).rx = some .eos ∧
    [EosAs.timeout, .fatal, .zero].all (fun e => (eosAs (world (.read seven) (some .eos)) e).params.eosAs == e) = true := by decide

theorem witness_DrainTooShortKeepsBuffer :
    (world (.drain seven)).insts[0]? = some (inst (.drain seven)) ∧ seven.length < 8 ∧ (seven.getD 1 0#8).toNat ≤ 5 ∧
    [0x01#8, 0x06#8, 0x80#8, 0x22#8].length < 5 := by decide

theorem witness_DrainBadCrcWipesBuffer :
    (world (.drain badFixed)).insts[0]? = some (inst (.drain badFixed)) ∧
    (8 ≤ badFixed.length ∧ (badFixed.getD 1 0#8).toNat ≤ 5 ∧ crcCheck (badFixed.take 8) = false) ∧
    (5 ≤ badVar.length ∧ 6 ≤ (badVar.getD 1 0#8).toNat ∧ crcCheck badVar = false) := by decide +kernel

theorem witness_DrainOkBuildsRequest :
    (world (.drain f1)).insts[0]? = some (inst (.drain f1)) ∧ decodeBuf f1 = .ok q1.frame [] := by decide +kernel

theorem witness_PushCompleteAppendsRequest :
    (world (.push f1 q1 []) none [q1]).insts[0]? = some (inst (.push f1 q1 [])) ∧
    (world (.push f1 q1 []) none [q1]).sink.length < (world (.push f1 q1 []) none [q1]).params.sinkCap := by decide

theorem witness_PushBlockedChangesNothing :
    (world (.push f1 q1 []) none [q1, q1]).insts[0]? = some (inst (.push f1 q1 [])) ∧
    (world (.push f1 q1 []) none [q1, q1]).sink.length = (world (.push f1 q1 []) none [q1, q1]).params.sinkCap := by decide

theorem witness_TermHaltChangesNothing : (world .term).insts[0]? = some (inst .term) ∧ (inst .term).ctl = .term := by decide

theorem witness_ExactlyOneTransitionApplies :
    (world (.read seven) (some .eos)).insts[0]? = some (inst (.read seven)) ∧ (∀ b, (inst (.read seven)).ctl ≠ .faulted b) ∧
    (world (.read seven) (some .eos)).rx ≠ none := ⟨by decide, by simp [inst], by decide⟩

theorem witness_TransitionFrame :
    .pushComplete ∈ transitions ∧ (next? (exec .pushComplete (world (.push f1 q1 []) none [q1]))).isSome = true ∧
    .pollContinue ∈ transitions ∧ (next? (exec .pollContinue (world (.poll seven)))).isSome = true := by decide +kernel

theorem witness_StepRunsDecodedInstruction :
    (withEnv (world (.poll [])) [.run 0]).fetch =
      .code (.sel 0x003#10) (withEnv (world (.poll [])) []) ∧ decodeCode (.sel 0x003#10) = .ok .pollContinue ∧
    ((withEnv (world (.poll [])) [.run 0]).insts[0]? = some (inst (.poll [])) ∧
      (∀ b, (inst (.poll [])).ctl ≠ .read b) ∧ ∀ b, (inst (.poll [])).ctl ≠ .faulted b) ∧
    ((withEnv (world (.read [])) [.rx 0 .eos]).insts[0]? = some (inst (.read [])) ∧
      ReadResult.wf (world (.read [])).params .eos = true ∧ ReadResult.wf (bounded (world .term)).params (.ok [0#8]) = true) ∧
    (withEnv (world .term) [.call 0xF#4 default]).env = .call 0xF#4 default :: [] ∧
    (withEnv (world .term) [.parse badVar]).env = .parse badVar :: [] ∧ (world .term).env = [] :=
  ⟨by rfl, by decide, ⟨by decide, by simp [inst], by simp [inst]⟩, by decide, rfl, rfl, rfl⟩

theorem witness_EnvironmentMovesAndWaits :
    (withEnv (world .term none [q1]) [.pop]).sink = q1 :: [] ∧ (world .term).insts[0]? = some (inst .term) ∧
    (inst .term).ctl = .term ∧ (world (.read [])).insts[0]? = some (inst (.read [])) ∧
    (world (.faulted seven)).insts[0]? = some (inst (.faulted seven)) := by decide

theorem witness_IllFormedMovesStopByName :
    ((world (.poll [])).insts[0]? = some (inst (.poll [])) ∧ ∀ b, (inst (.poll [])).ctl ≠ .read b) ∧
    ((bounded (world (.read []))).insts[0]? = some (inst (.read [])) ∧ (bounded (world (.read []))).params.readMax = some 1 ∧
      1 < [0#8, 0#8].length) ∧
    (world .term).sink = [] ∧ (inst (.faulted [])).ctl ≠ .term ∧ 0xC ≤ (0xC#4).toNat ∧ 0xC ≤ (0xF#4).toNat ∧
    (world .term).insts[1]? = none := ⟨⟨by decide, by simp [inst]⟩, by decide⟩

theorem witness_EveryPossibleMoveCompletes :
    [Move.run 0, .rx 0 (.ok [0#8]), .pop, .shutdown 0 true, .create 0, .call 0xB#4 default, .parse [],
      .call 0x3#4 ⟨[], ⟨1#8, 6#8, [1#8, 2#8, 3#8, 4#8, 5#8]⟩, 0#8⟩, .call 0x8#4 ⟨[1#8, 2#8, 3#8, 4#8, 5#8], default, 0#8⟩].all
      (Move.wf (bounded (world .term)).params 1) = true ∧
    (∃ i b, (world (.read [])).insts[0]? = some i ∧ i.ctl = .read b) ∧ (world .term none [q1]).sink ≠ [] ∧
    ∃ i, (world .term).insts[0]? = some i ∧ i.ctl = .term :=
  ⟨by decide, ⟨inst (.read []), [], by decide, rfl⟩, by decide, inst .term, by decide, rfl⟩

/-- A move after which the registers of the instance are as given. -/
def becomes (c : Ctl) (m : Move) (c' : Ctl) (sink : List Request := []) : Bool :=
  ctlAfter (world c none sink) m == some c'

theorem witness_PhaseAdvancesByTable :
    becomes (.poll seven) (.run 0) (.read seven) = true ∧ becomes (.read seven) (.rx 0 .timeout) (.poll []) = true ∧
    becomes (.drain badVar) (.run 0) (.poll []) = true ∧ becomes (.push f1 q1 []) (.run 0) (.drain []) = true ∧
    becomes .term (.create 0) (.poll []) = true ∧ becomes (.faulted seven) (.run 0) (.faulted seven) = true := by decide +kernel

theorem witness_StepsTouchOnlyTheirInstance :
    (next? (step (withEnv (world (.poll [])) [.run 0]))).isSome = true ∧
    moveTarget (withEnv (world (.poll [])) [.run 0]).nextMove.1 ≠ some 1 := by decide +kernel

theorem witness_ParametersAndPortsAreConstant : (next? (step (withEnv (world .term) [.create 0]))).isSome = true := by
  decide +kernel

theorem witness_SinkIsFifo :
    sinkAfter (world (.push f1 q1 []) none [default]) (.run 0) = some [default, q1] ∧
    sinkAfter (world .term none [q1]) .pop = some [] ∧ sinkAfter (world .term none [q1]) (.run 0) = some [q1] := by
  decide +kernel

theorem witness_ShutdownSeenOnlyInPoll :
    (∀ i b, (withEnv (world (.drain f1)) [.run 0]).nextMove.1 = .run 0 → (world (.drain f1)).insts[0]? = some i →
      i.ctl ≠ .poll b) ∧ ∀ b, (withEnv (world (.drain f1)) [.run 0]).nextMove.1 ≠ .shutdown 0 b :=
  ⟨by intro i b _ h; cases h; simp, by simp [withEnv, State.nextMove]⟩

theorem witness_ChunkIsDrainedInOneRun :
    (bounded (world (.read seven))).insts[0]? = some (inst (.read seven)) ∧ [0x0B#8] ≠ [] ∧
    (∀ m, (bounded (world (.read seven))).params.readMax = some m → [0x0B#8].length ≤ m) ∧
    (∀ c, (bounded (world (.read seven))).params.bufCap = some c → seven.length + [0x0B#8].length ≤ c) ∧
    (bounded (world (.read seven))).sink.length + (drain (seven ++ [0x0B#8])).1.length ≤ (bounded (world (.read seven))).params.sinkCap ∧
    (drain (seven ++ [0x0B#8])).1.length = 1 :=
  ⟨by decide, by decide, by simp [bounded, world], by simp [bounded, world, seven], by decide +kernel, by decide +kernel⟩

theorem witness_FixedFramesThenTail :
    (∀ f ∈ [q1.frame, q1.frame], f.function.toNat ≤ 5 ∧ f.data.length = 4) ∧
    (6 ≤ (0x06#8 : Byte).toNat ∧ [0x07#8] ≠ []) ∧ [0x01#8, 0x03#8, 0x40#8, 0x21#8].length < 5 := by decide

theorem witness_DecodeEncodeAgree :
    (Instr.frameVar_40_7F 0x40#8).wf = true ∧ decodeCode (.sel 0x07F#10) = .ok .pollShutdown ∧
    decodeCode (.op 0xB#4) = .ok .crcBit ∧ decodeCode (.frame 0x7F#8) = .ok (.frameVar_40_7F 0x7F#8) := by decide

end Sys2Proof.Tests
end

section
/-! PROOFS. What the fetch of a listed move leads to, move by move, and the statement that a step is exec of the decoded
code word (R12, R94, R95). -/

namespace Sys2Proof.Machine

/-- The head of env is the move that is made (log entry 2). -/
theorem nextMove_of_env_cons {s : State} {m : Move} {rest : List Move} (h : s.env = m :: rest) :
    s.nextMove = (m, { s with env := rest }) := by
  simp only [State.nextMove, h]

/-- With no move listed, the free choice is made as if it were the only one listed (log entry 2). -/
theorem nextMove_of_env_nil {s : State} (h : s.env = []) :
    s.nextMove = State.nextMove { s with env := [Config.freeMove s.tick], tick := s.tick + 1 } := by
  simp only [State.nextMove, h]

theorem step_eq_of_nextMove_eq {s t : State} (h : s.nextMove = t.nextMove) : step s = step t := by
  simp only [step, State.fetch, h]

theorem step_of_fetch_code {s s' : State} {c : Code} {i : Instr} (hf : s.fetch = .code c s')
    (hd : decodeCode c = .ok i) : step s = exec i s' := by
  simp only [step, hf, hd]

section Listed

variable {s : State} {rest : List Move}

theorem fetch_run_listed {p : Nat} (h : s.env = .run p :: rest) :
    s.fetch = State.fetchRun { s with env := rest } p := by
  simp only [State.fetch, nextMove_of_env_cons h]

theorem fetch_rx_listed {p : Nat} {r : ReadResult} (h : s.env = .rx p r :: rest) :
    s.fetch = State.fetchRx { s with env := rest } p r := by
  simp only [State.fetch, nextMove_of_env_cons h]

theorem fetch_call_listed {op : BitVec 4} {a : Args} (h : s.env = .call op a :: rest) :
    s.fetch = .code (.op op) (State.withArgs { s with env := rest } a) := by
  simp only [State.fetch, nextMove_of_env_cons h]

theorem fetch_parse_listed {buf : List Byte} (h : s.env = .parse buf :: rest) :
    s.fetch = State.fetchParse { s with env := rest } buf := by
  simp only [State.fetch, nextMove_of_env_cons h]

end Listed

/-- What neither waits for its port nor is faulted gives its SEL word when let run (R95). -/
theorem fetchRun_of_ready {s : State} {p : Nat} {i : Instance} (hi : s.insts[p]? = some i)
    (hr : ∀ b, i.ctl ≠ .read b) (hf : ∀ b, i.ctl ≠ .faulted b) :
    s.fetchRun p = .code (.sel ((s.select p none).selWord i)) (s.select p none) := by
  rcases fetchRun_cases s p with ⟨hn, _⟩ | ⟨j, hj, hc, _⟩ | ⟨j, hj, _, _, e⟩
  · simp [hi] at hn
  · obtain rfl : i = j := by simpa [hi] using hj
    rcases hc with ⟨b, hb⟩ | ⟨b, hb⟩
    · exact absurd hb (hr b)
    · exact absurd hb (hf b)
  · obtain rfl : i = j := by simpa [hi] using hj
    exact e

/-- A read that was issued completes with any well-formed result and gives the SEL word that shows it (R163, R212). -/
theorem fetchRx_of_reading {s : State} {p : Nat} {r : ReadResult} {i : Instance} {b : List Byte}
    (hi : s.insts[p]? = some i) (hc : i.ctl = .read b) (hw : r.wf s.params = true) :
    s.fetchRx p r = .code (.sel ((s.select p (some r)).selWord i)) (s.select p (some r)) := by
  rw [← chunkFits_eq_wf] at hw
  rcases fetchRx_cases s p r with ⟨hn, _⟩ | ⟨j, hj, hr, _⟩ | ⟨_, _, _, _, hw', _⟩ | ⟨j, _, hj, _, _, e⟩
  · simp [hi] at hn
  · obtain rfl : i = j := by simpa [hi] using hj
    exact absurd hc (hr b)
  · simp [hw] at hw'
  · obtain rfl : i = j := by simpa [hi] using hj
    exact e

/-- The function byte is the code word, where there is one to read; below 5 bytes DECODE itself answers (R51, R83). -/
theorem fetchParse_eq (s : State) (buf : List Byte) :
    s.fetchParse buf = .code (if buf.length < 5 then .op 0x2#4 else .frame (buf.getD 1 0#8))
      (s.withArgs { s.codec.args with bytes := buf }) := by
  by_cases h : buf.length < 5
  · simp [State.fetchParse, minLen, h]
  · simp [State.fetchParse, minLen, byteAt, h]

/-- Settles O41: the fetch lemma of each kind of move; with no move listed, both steps make the same move. -/
theorem stepRunsDecodedInstruction : Obligations.StepRunsDecodedInstruction := by
  refine ⟨fun s s' c i => step_of_fetch_code, ?run, ?rx, ?call, ?parse, ?free⟩
  case run =>
    rintro s p rest i he hi hr hf s' rfl
    rw [fetch_run_listed he]
    exact fetchRun_of_ready hi hr hf
  case rx =>
    rintro s p r rest i b he hi hc hw s' rfl
    rw [fetch_rx_listed he]
    exact fetchRx_of_reading hi hc hw
  case call =>
    intro s op a rest he
    exact fetch_call_listed he
  case parse =>
    intro s buf rest he
    rw [fetch_parse_listed he]
    exact fetchParse_eq _ buf
  case free =>
    intro s he
    exact step_eq_of_nextMove_eq (nextMove_of_env_nil he)

end Sys2Proof.Machine
end

section
/-! PROOFS. The machine at reset: the registers, the port identities and the invariant (R39, R240). -/

namespace Sys2Proof.Machine

/-- The instances at reset are fresh ones (R39). -/
theorem mem_reset_insts {i : Instance} (h : i ∈ State.reset.insts) : ∃ k, i = Instance.fresh k := by
  obtain ⟨k, _, rfl⟩ := List.mem_map.mp h
  exact ⟨k, rfl⟩

theorem length_reset_insts : State.reset.insts.length = Config.nports := by
  simp [State.reset]

theorem reset_portIds_nodup : (State.reset.insts.map Instance.portId).Nodup := by
  have hinj : Function.Injective fun k => (Instance.fresh k).portId := fun a b h => by simpa [Instance.fresh] using h
  simpa [State.reset, Function.comp_def] using (List.nodup_range' (step := 1)).map hinj

/-- The parameters at reset respect R6, whatever the open ones are. -/
theorem reset_params_wf : State.reset.params.wf = true := by
  simp [State.reset, Config.params, Params.wf]

/-- A fresh instance has an empty buffer, which no BUF_CAP excludes and DECODE calls TooShort. -/
theorem fresh_ok (p : Params) (k : Nat) : (Instance.fresh k).ok p = true := by
  cases h : p.bufCap <;> simp [Instance.ok, Instance.fresh, fits, h, decodeBuf, minLen]

/-- Settles O1: every instance at reset is a fresh one, and the identities are numbered. -/
theorem resetLeavesEveryInstanceInPoll : Obligations.ResetLeavesEveryInstanceInPoll := by
  refine ⟨length_reset_insts, Nat.le_add_left 1 _, reset_portIds_nodup, fun i hi => ?_, rfl, rfl, reset_params_wf⟩
  obtain ⟨k, rfl⟩ := mem_reset_insts hi
  exact ⟨rfl, rfl, rfl, rfl, rfl⟩

/-- Settles O2, field by field; SINK is empty. -/
theorem resetMeetsInvariant : Obligations.ResetMeetsInvariant where
  params := reset_params_wf
  portsExist := List.ne_nil_of_length_pos (length_reset_insts ▸ Nat.succ_pos _)
  portsApart := reset_portIds_nodup
  sinkFits := Nat.zero_le _
  sinkValid := by simp [State.reset]
  sinkPorts := by simp [State.reset]
  instsOk := fun i hi => by
    obtain ⟨k, rfl⟩ := mem_reset_insts hi
    exact fresh_ok _ k

end Sys2Proof.Machine
end

section
/-! PROOFS. What a codec instruction, a transition and a step leave unchanged, and what they may do to PHASE and SINK
(R28, R34, R38, R57). -/

namespace Sys2Proof.Machine

/-- The micro-operations on the CRC register (R111 to R113). -/
def isMicro (i : Instr) : Prop := i = .crcInit ∨ i = .crcByte ∨ i = .crcBit

/-- A micro-operation that completes writes CRC, every other codec instruction the result. -/
theorem codec_next_cases {s t : State} {i : Instr} (hi : isCodec i = true) (h : exec i s = .next t) :
    (isMicro i ∧ ∃ c, t = s.setCrc c) ∨ (¬ isMicro i ∧ ∃ v, t = s.returns v) := by
  by_cases hm : isMicro i
  · refine .inl ⟨hm, ?_⟩
    rcases hm with rfl | rfl | rfl <;> exact ⟨_, (Host.Outcome.next.inj h).symm⟩
  · refine .inr ⟨hm, ?_⟩
    cases i with
    | crcInit | crcByte | crcBit => simp [isMicro] at hm
    | frameFixed8_00_03 | frameFixed8_04_05 | frameVar_06_07 | frameVar_08_0F | frameVar_10_1F | frameVar_20_3F
    | frameVar_40_7F | frameVar_80_FF => exact ⟨_, (onFrame_next h).2.2.2⟩
    | crcCheck =>
      simp only [exec, execCrcCheck] at h
      split at h
      · exact ⟨_, (Host.Outcome.next.inj h).symm⟩
      · cases h
    | crc16 | decode | encode | setException | copy | getFunction | getData | setData =>
      exact ⟨_, (Host.Outcome.next.inj h).symm⟩
    | _ => exact absurd hi (by decide)

/-- Settles O25: a completed codec call is a write of CRC or of the result. -/
theorem codecTouchesNoReassembler : Obligations.CodecTouchesNoReassembler := by
  intro s t i hi h
  rcases codec_next_cases hi h with ⟨hm, c, rfl⟩ | ⟨hm, v, rfl⟩
  · exact ⟨rfl, fun _ => rfl, fun hn => absurd hm hn⟩
  · exact ⟨rfl, fun hn => absurd hn hm, fun _ => rfl⟩

/-- Writing back what an instance holds changes nothing. -/
theorem set_getElem?_self {α : Type} {l : List α} {n : Nat} {a : α} (h : l[n]? = some a) : l.set n a = l := by
  obtain ⟨hn, rfl⟩ := List.getElem?_eq_some_iff.mp h
  exact List.set_getElem_self hn

/-- A transition writes SINK only by handing off the Request of an instance in PUSH, with room (R172). -/
theorem transition_sink {s t : State} {j : Instr} (h : Transition s j t) :
    t.sink = s.sink ∨
    ∃ i b q r, j = .pushComplete ∧ s.insts[s.cur]? = some i ∧ i.ctl = .push b q r ∧ s.room = true ∧
      t = s.handOff i q r := by
  cases h with
  | pushComplete i b r q hi hc hroom => exact .inr ⟨i, b, q, r, rfl, hi, hc, hroom, rfl⟩
  | _ => exact .inl rfl

/-- The table of R28: how control state c may follow that of instance i, with SINK before and after; TERM is left only
where the controller has created a new instance. -/
def PhaseRow (i : Instance) (c : Ctl) (before after : List Request) (created : Prop) : Prop :=
  match i.ctl with
  | .poll b => (i.shutdown = true ∧ c = .term) ∨ (i.shutdown = false ∧ c = .read b)
  | .read b => c = .poll [] ∨ c = .poll b ∨ c = .term ∨ c = .faulted b ∨ ∃ bytes, bytes ≠ [] ∧ c = .drain (b ++ bytes)
  | .drain b => (c = .poll b ∧ decodeBuf b = .tooShort b) ∨ (c = .poll [] ∧ decodeBuf b = .checksumMismatch []) ∨
      ∃ f r, decodeBuf b = .ok f r ∧ c = .push b ⟨i.portId, f⟩ r
  | .push _ q r => c = .drain r ∧ after = before ++ [q]
  | .term => created ∧ c = .poll []
  | .faulted _ => False

/-- A transition writes the control state of the selected instance, by a row of R28 if it changes, SINK and the
presented read result; nothing else. -/
theorem transition_effect {s t : State} {k : Instr} (created : Prop) (h : Transition s k t) :
    ∃ i c, s.insts[s.cur]? = some i ∧
      t = { s with insts := s.insts.set s.cur { i with ctl := c }, sink := t.sink, rx := t.rx } ∧
      (c = i.ctl ∨ PhaseRow i c s.sink t.sink created) := by
  cases h with
  | pushBlocked i | termHalt i =>
    exact ⟨i, i.ctl, ‹_›, by rw [set_getElem?_self ‹_›], .inl rfl⟩
  | drainTooShort i b r hi hc hd =>
    obtain rfl := decodeBuf_tooShort_self hd
    exact ⟨i, _, hi, rfl, .inr (by simp [PhaseRow, hc, hd])⟩
  | drainBadCrc i b r hi hc hd =>
    obtain rfl := decodeBuf_mismatch_nil hd
    exact ⟨i, _, hi, rfl, .inr (by simp [PhaseRow, hc, hd])⟩
  | _ i _ => exact ⟨i, _, ‹_›, rfl, .inr (by simp [PhaseRow, *])⟩

/-- Settles O40: the effect of a transition, and its one write of SINK. -/
theorem transitionFrame : Obligations.TransitionFrame := by
  intro s t j hj h
  have htr := transition_of_exec hj h
  obtain ⟨i, c, hi, ht, -⟩ := transition_effect False htr
  refine ⟨i, c, hi, ht, ?_⟩
  rcases transition_sink htr with hs | ⟨i', b, q, r, hpc, hi', hc, -, rfl⟩
  · exact .inl hs
  · obtain rfl : i = i' := by simpa [hi] using hi'
    exact .inr ⟨hpc, b, q, r, hc, rfl⟩

/-- What a step by move m may do to the instances: it leaves all, or writes the one m is for, whose PORT_ID stays and
whose control state, if it changes, follows R28. -/
inductive InstsEffect (m : Move) (s t : State) : Prop where
  | same (h : t.insts = s.insts)
  | wrote (p : Nat) (i j : Instance) (target : moveTarget m = some p) (before : s.insts[p]? = some i)
      (after : t.insts = s.insts.set p j) (port : j.portId = i.portId)
      (phase : j.ctl = i.ctl ∨ PhaseRow i j.ctl s.sink t.sink (m = .create p))

/-- A transition of the instance a move is for, after that move was taken. -/
theorem instsEffect_of_transition {s t u : State} {m : Move} {p : Nat} {r : Option ReadResult} {k : Instr}
    (hn : s.nextMove = (m, u)) (hp : moveTarget m = some p) (h : Transition (u.select p r) k t) :
    t.params = s.params ∧ InstsEffect m s t := by
  obtain ⟨hparams, hinsts, hsink, -⟩ := nextMove_frame hn
  obtain ⟨i, c, hi, ht, hc⟩ := transition_effect (m = .create p) h
  simp only [select_insts, select_cur, select_sink, hinsts, hsink] at hi hc
  have hset : t.insts = s.insts.set p { i with ctl := c } := by rw [ht]; simp [hinsts]
  exact ⟨ht ▸ hparams, .wrote p i _ hp hi hset rfl hc⟩

/-- Every step that gives a next state keeps the parameters and writes at most its own instance. -/
theorem step_effect {s t : State} (h : step s = .next t) : t.params = s.params ∧ InstsEffect s.nextMove.1 s t := by
  rcases hn : s.nextMove with ⟨m, u⟩
  obtain ⟨hparams, hinsts, -⟩ := nextMove_frame hn
  rcases step_cases hn h with ⟨p, -, k, rfl, -, -, htr⟩ | ⟨-, -, -, -, -, rfl⟩ | ⟨p, r, -, -, k, rfl, -, -, -, -, htr⟩ |
    ⟨a, k, -, hk, he⟩ | ⟨q, qs, -, -, rfl⟩ | ⟨p, b, i, rfl, hi, rfl⟩ | ⟨p, i, rfl, hi, hc, rfl⟩
  · exact instsEffect_of_transition hn rfl htr
  · exact ⟨hparams, .same hinsts⟩
  · exact instsEffect_of_transition hn rfl htr
  · rcases codec_next hk he with ⟨v, rfl⟩ | ⟨c, rfl⟩
    · exact ⟨hparams, .same hinsts⟩
    · exact ⟨hparams, .same hinsts⟩
  · exact ⟨hparams, .same hinsts⟩
  · rw [hinsts] at hi
    exact ⟨hparams, .wrote p i { i with shutdown := b } rfl hi (by simp [hinsts]) rfl (.inl rfl)⟩
  · rw [hinsts] at hi
    exact ⟨hparams, .wrote p i { i with ctl := .poll [] } rfl hi (by simp [hinsts]) rfl (.inr (by simp [PhaseRow, hc]))⟩

/-- Settles O45: the effect of the step, read at instance p. -/
theorem phaseAdvancesByTable : Obligations.PhaseAdvancesByTable := by
  intro s t p i j h hi hj
  obtain ⟨-, heff⟩ := step_effect h
  cases heff with
  | same hsame =>
    obtain rfl : i = j := by simpa [hsame, hi] using hj
    exact .inl rfl
  | wrote p' i' j' _ hi' hset _ hphase =>
    rw [hset, List.getElem?_set] at hj
    split at hj
    · subst p'
      obtain rfl : i' = i := by simpa [hi] using hi'.symm
      obtain ⟨-, rfl⟩ : p < s.insts.length ∧ j' = j := by simpa using hj
      exact hphase
    · obtain rfl : i = j := by simpa [hi] using hj
      exact .inl rfl

/-- Settles O46: an instance that is written is the one the move is for. -/
theorem stepsTouchOnlyTheirInstance : Obligations.StepsTouchOnlyTheirInstance := by
  intro s t q h hq
  obtain ⟨-, heff⟩ := step_effect h
  cases heff with
  | same hsame => rw [hsame]
  | wrote p i j hp _ hset _ _ =>
    have hne : p ≠ q := by rintro rfl; exact hq hp
    rw [hset, List.getElem?_set_ne hne]

/-- Settles O47: the instance that is written keeps its place and its PORT_ID. -/
theorem parametersAndPortsAreConstant : Obligations.ParametersAndPortsAreConstant := by
  intro s t h
  obtain ⟨hparams, heff⟩ := step_effect h
  refine ⟨hparams, ?_⟩
  cases heff with
  | same hsame => rw [hsame]; exact ⟨rfl, rfl⟩
  | wrote p i j _ hi hset hport _ =>
    have hid : (s.insts.map Instance.portId)[p]? = some j.portId := by simp [hi, hport]
    rw [hset, List.map_set, set_getElem?_self hid]
    exact ⟨List.length_set, rfl⟩

/-- Settles O48: SINK is written by PUSH.COMPLETE, which no read completion selects, and by the consumer. -/
theorem sinkIsFifo : Obligations.SinkIsFifo := by
  intro s t h
  rcases hn : s.nextMove with ⟨m, u⟩
  obtain ⟨hparams, hinsts, hsink, -⟩ := nextMove_frame hn
  rcases step_cases hn h with ⟨p, -, k, rfl, -, -, htr⟩ | ⟨-, -, -, -, -, rfl⟩ |
    ⟨p, r, i, b, k, -, hi, hc, -, -, htr⟩ | ⟨a, k, -, hk, he⟩ | ⟨q, qs, rfl, hs, rfl⟩ | ⟨p, b, i, -, -, rfl⟩ |
    ⟨p, i, -, -, -, rfl⟩
  · rcases transition_sink htr with hs | ⟨i, b, q, r, -, hi, hc, hroom, rfl⟩
    · exact .inl (hs.trans hsink)
    · simp only [State.room, select_sink, select_params, select_insts, select_cur, decide_eq_true_eq, hsink, hparams,
        hinsts] at hi hroom
      exact .inr (.inr ⟨p, i, b, q, r, rfl, hi, hc, hroom, by simp [hsink], by simp [hinsts]⟩)
  · exact .inl hsink
  · rcases transition_sink htr with hs | ⟨i', b', q, r', -, hi', hc', -, -⟩
    · exact .inl (hs.trans hsink)
    · obtain rfl : i = i' := by simpa [hi] using hi'
      rw [hc] at hc'
      cases hc'
  · rcases codec_next hk he with ⟨v, rfl⟩ | ⟨c, rfl⟩
    · exact .inl hsink
    · exact .inl hsink
  · exact .inr (.inl ⟨rfl, q, hsink.symm.trans hs⟩)
  · exact .inl hsink
  · exact .inl hsink

end Sys2Proof.Machine
end

section
/-! PROOFS. Setting a SHUTDOWN level commutes with every step that does not look at it (R31, R205, R207): with the
operations on the state, the fetch of a move, the choice of the row, and the meaning of each instruction. -/

namespace Sys2Proof.Machine

/-- The instance at position q after p's SHUTDOWN level was set. -/
def driven (p : Nat) (level : Bool) (q : Nat) (i : Instance) : Instance :=
  if p = q then { i with shutdown := level } else i

section Driven

variable (s : State) (p q : Nat) (level : Bool) (i : Instance) (c : Ctl)

@[simp] theorem driven_ctl : (driven p level q i).ctl = i.ctl := by
  unfold driven; split <;> rfl

@[simp] theorem driven_portId : (driven p level q i).portId = i.portId := by
  unfold driven; split <;> rfl

theorem driven_with_ctl : { driven p level q i with ctl := c } = driven p level q { i with ctl := c } := by
  unfold driven; split <;> rfl

theorem driven_other {p q : Nat} (h : p ≠ q) : driven p level q i = i := if_neg h

@[simp] theorem withShutdown_params : (s.withShutdown p level).params = s.params := rfl
@[simp] theorem withShutdown_sink : (s.withShutdown p level).sink = s.sink := rfl
@[simp] theorem withShutdown_cur : (s.withShutdown p level).cur = s.cur := rfl
@[simp] theorem withShutdown_rx : (s.withShutdown p level).rx = s.rx := rfl
@[simp] theorem withShutdown_codec : (s.withShutdown p level).codec = s.codec := rfl
@[simp] theorem withShutdown_env : (s.withShutdown p level).env = s.env := rfl
@[simp] theorem withShutdown_tick : (s.withShutdown p level).tick = s.tick := rfl
@[simp] theorem withShutdown_room : (s.withShutdown p level).room = s.room := rfl
@[simp] theorem withShutdown_overflows (b bytes : List Byte) :
    (s.withShutdown p level).overflows b bytes = s.overflows b bytes := rfl

@[simp] theorem withShutdown_getElem? :
    (s.withShutdown p level).insts[q]? = s.insts[q]?.map (driven p level q) := by
  simp only [State.withShutdown, List.getElem?_modify, Option.map_eq_map]
  rfl

@[simp] theorem withShutdown_length : (s.withShutdown p level).insts.length = s.insts.length :=
  List.length_modify _ _ _

/-- Writing the instance at q and setting p's SHUTDOWN level commute. -/
theorem withShutdown_set :
    (s.withShutdown p level).insts.set q (driven p level q i) =
      (State.withShutdown { s with insts := s.insts.set q i } p level).insts := by
  apply List.ext_getElem?
  intro k
  by_cases hk : q = k
  · subst hk
    simp only [withShutdown_getElem?, List.getElem?_set, withShutdown_length, if_true]
    split <;> rfl
  · simp [List.getElem?_set_ne hk]

/-! Each operation on the selected instance commutes with the setting. -/

@[simp] theorem withShutdown_setCtl :
    (s.withShutdown p level).setCtl (driven p level s.cur i) c = (s.setCtl i c).withShutdown p level := by
  have h := withShutdown_set s p s.cur level { i with ctl := c }
  simp only [State.setCtl, driven_with_ctl, withShutdown_cur, h]
  rfl

@[simp] theorem withShutdown_backToPoll (b : List Byte) :
    (s.withShutdown p level).backToPoll (driven p level s.cur i) b = (s.backToPoll i b).withShutdown p level :=
  withShutdown_setCtl ..

@[simp] theorem withShutdown_lineIdle :
    (s.withShutdown p level).lineIdle (driven p level s.cur i) = (s.lineIdle i).withShutdown p level :=
  withShutdown_setCtl ..

@[simp] theorem withShutdown_terminate :
    (s.withShutdown p level).terminate (driven p level s.cur i) = (s.terminate i).withShutdown p level :=
  withShutdown_setCtl ..

@[simp] theorem withShutdown_raiseBufferOverflow (b : List Byte) :
    (s.withShutdown p level).raiseBufferOverflow (driven p level s.cur i) b =
      (s.raiseBufferOverflow i b).withShutdown p level :=
  withShutdown_setCtl ..

@[simp] theorem withShutdown_handOff (q : Request) (r : List Byte) :
    (s.withShutdown p level).handOff (driven p level s.cur i) q r = (s.handOff i q r).withShutdown p level :=
  congrArg (fun t : State => { t with sink := s.sink ++ [q] }) (withShutdown_setCtl s p level i (.drain r))

@[simp] theorem withShutdown_endRead : (s.withShutdown p level).endRead = s.endRead.withShutdown p level := rfl

end Driven

/-- The outcome's next state, if there is one, with p's SHUTDOWN level set. -/
def drive (p : Nat) (level : Bool) (o : Out) : Out := mapNext (·.withShutdown p level) o

@[simp] theorem drive_next (p : Nat) (level : Bool) (t : State) :
    drive p level (.next t) = .next (t.withShutdown p level) := rfl

@[simp] theorem drive_refused (p : Nat) (level : Bool) (r : Refusal) : drive p level (.refused r) = .refused r := rfl

section Exec

variable {s : State} {p : Nat} {level : Bool}

theorem onFrame_withShutdown (mask value fn : Byte) (dec : List Byte → DecodeResult) :
    (s.withShutdown p level).onFrame mask value fn dec = drive p level (s.onFrame mask value fn dec) := by
  unfold State.onFrame
  rw [apply_ite (drive p level)]
  rfl

/-- A codec instruction looks at no instance (R57). -/
theorem exec_codec_withShutdown {j : Instr} (hj : isCodec j = true) :
    exec j (s.withShutdown p level) = drive p level (exec j s) := by
  cases j with
  | frameFixed8_00_03 | frameFixed8_04_05 | frameVar_06_07 | frameVar_08_0F | frameVar_10_1F | frameVar_20_3F
  | frameVar_40_7F | frameVar_80_FF => exact onFrame_withShutdown ..
  | crcCheck =>
    simp only [exec, execCrcCheck]
    rw [apply_ite (drive p level)]
    rfl
  | crc16 | decode | encode | setException | copy | getFunction | getData | setData | crcInit | crcByte | crcBit => rfl
  | _ => exact absurd hj (by decide)

/-- What carries on with the selected instance commutes with the setting when its continuations do. -/
theorem onSelected_withShutdown {k k' : Instance → Out}
    (h : ∀ i, s.insts[s.cur]? = some i → k' (driven p level s.cur i) = drive p level (k i)) :
    (s.withShutdown p level).onSelected k' = drive p level (s.onSelected k) := by
  unfold State.onSelected
  rw [withShutdown_cur, withShutdown_getElem?]
  cases hi : s.insts[s.cur]? with
  | none => rfl
  | some i => exact h i hi

theorem onRead_withShutdown {k k' : Instance → List Byte → ReadResult → Out}
    (h : ∀ i b r, k' (driven p level s.cur i) b r = drive p level (k i b r)) :
    (s.withShutdown p level).onRead k' = drive p level (s.onRead k) := by
  refine onSelected_withShutdown fun i _ => ?_
  rw [driven_ctl, withShutdown_rx]
  cases i.ctl with
  | read b =>
    cases s.rx with
    | none => rfl
    | some r => exact h i b r
  | _ => rfl

/-- A transition looks at the SHUTDOWN level of the selected instance in POLL only (R161, R162). -/
theorem exec_transition_withShutdown {j : Instr} (hj : j ∈ transitions)
    (h : ∀ i b, p = s.cur → s.insts[s.cur]? = some i → i.ctl ≠ .poll b) :
    exec j (s.withShutdown p level) = drive p level (exec j s) := by
  cases j with
  | pollShutdown | pollContinue =>
    refine onSelected_withShutdown fun i hi => ?_
    rw [driven_ctl]
    cases hc : i.ctl with
    | poll b =>
      have hlevel : (driven p level s.cur i).shutdown = i.shutdown := by
        rw [driven_other level i fun hp => h i b hp hi hc]
      rw [hlevel]
      cases i.shutdown <;> simp
    | _ => rfl
  | rxData =>
    refine onRead_withShutdown fun i b r => ?_
    rcases r with (_ | ⟨x, xs⟩) | _ | _ | _
    case ok.cons => cases ho : s.overflows b (x :: xs) <;> simp [ho]
    all_goals rfl
  | rxZero | rxTimeout | rxFatal =>
    refine onRead_withShutdown fun i b r => ?_
    rcases r with (_ | ⟨x, xs⟩) | _ | _ | _ <;> simp
  | rxEos =>
    refine onRead_withShutdown fun i b r => ?_
    cases r with
    | eos => cases he : s.params.eosAs <;> simp [he]
    | _ => rfl
  | drainOk | drainTooShort | drainBadCrc =>
    refine onSelected_withShutdown fun i _ => ?_
    rw [driven_ctl]
    cases i.ctl with
    | drain b => cases hd : decodeBuf b <;> simp [hd]
    | _ => rfl
  | pushComplete | pushBlocked =>
    refine onSelected_withShutdown fun i _ => ?_
    rw [driven_ctl]
    cases i.ctl with
    | push b q r => cases hr : s.room <;> simp [hr]
    | _ => rfl
  | termHalt =>
    refine onSelected_withShutdown fun i _ => ?_
    rw [driven_ctl]
    cases i.ctl <;> rfl
  | _ => simp [transitions] at hj

end Exec

/-- Words that the same rows of a table hit select the same instruction. -/
theorem findRow_congr {w : Nat} {rows : List (Row w)} {x y : BitVec w} (h : ∀ r ∈ rows, r.hits x = r.hits y) :
    findRow rows x = findRow rows y := by
  unfold findRow
  rw [List.find?_congr h]

/-- In the SEL table a row looks at SHUT, bit 6, only if it asks for PHASE 0 in bits 7 to 9 (R95). -/
theorem selRows_shut_only_in_poll : ∀ r ∈ selRows, r.mask.getLsbD 6 = false ∨
    ∀ k ∈ [7, 8, 9], r.mask.getLsbD k = true ∧ r.value.getLsbD k = false := by
  decide

/-- A row that asks for 0 in a bit is missed by a word with a 1 there. -/
theorem hits_eq_false_of_getLsbD {w k : Nat} {r : Row w} {x : BitVec w}
    (hm : r.mask.getLsbD k = true) (hv : r.value.getLsbD k = false) (hx : x.getLsbD k = true) : r.hits x = false := by
  rw [Row.hits, beq_eq_false_iff_ne]
  intro h
  have hk := congrArg (·.getLsbD k) h
  simp [hm, hv, hx] at hk

/-- Two SEL words outside PHASE 0 that differ in SHUT at most are in the same row (R95). -/
theorem findRow_selRows_congr {x y : BitVec 10} {k : Nat} (hk : k ∈ [7, 8, 9]) (hx : x.getLsbD k = true)
    (hxy : ∀ n, n ≠ 6 → x.getLsbD n = y.getLsbD n) : findRow selRows x = findRow selRows y := by
  refine findRow_congr fun r hr => ?_
  rcases selRows_shut_only_in_poll r hr with hmask | hphase
  · have hand : x &&& r.mask = y &&& r.mask := by
      refine BitVec.eq_of_getLsbD_eq fun n _ => ?_
      by_cases hn : n = 6
      · rw [BitVec.getLsbD_and, BitVec.getLsbD_and, hn, hmask, Bool.and_false, Bool.and_false]
      · simp [hxy n hn]
    rw [Row.hits, Row.hits, hand]
  · obtain ⟨hm, hv⟩ := hphase k hk
    have hne : k ≠ 6 := by rintro rfl; simp at hk
    rw [hits_eq_false_of_getLsbD hm hv hx, hits_eq_false_of_getLsbD hm hv (hxy k hne ▸ hx)]

/-- The SHUTDOWN level is in SEL bit 6 only (R95). -/
theorem selWord_shut_bit (s : State) (i : Instance) (level : Bool) {n : Nat} (hn : n ≠ 6) :
    (s.selWord i).getLsbD n = (s.selWord { i with shutdown := level }).getLsbD n := by
  simp only [State.selWord, BitVec.getLsbD_append]
  by_cases h : n < 6
  · grind
  · have hphase : ¬ n - 1 - 2 - 1 - 2 < 1 := by omega
    rw [if_neg hphase, if_neg hphase]

/-- PHASE is in SEL bits 7 to 9 (R95). -/
theorem selWord_phase_bit (s : State) (i : Instance) (k : Nat) :
    (s.selWord i).getLsbD (k + 7) = i.ctl.phase.code.getLsbD k := by
  simp only [State.selWord, BitVec.getLsbD_append]
  grind

/-- Outside POLL, PHASE is not 0 (R27). -/
theorem exists_phase_bit (s : State) {i : Instance} (h : ∀ b, i.ctl ≠ .poll b) :
    ∃ k ∈ [7, 8, 9], (s.selWord i).getLsbD k = true := by
  cases hc : i.ctl with
  | poll b => exact absurd hc (h b)
  | read | push | faulted => exact ⟨7, by decide, by rw [selWord_phase_bit s i 0, hc]; simp [Ctl.phase, Phase.code]⟩
  | drain => exact ⟨8, by decide, by rw [selWord_phase_bit s i 1, hc]; simp [Ctl.phase, Phase.code]⟩
  | term => exact ⟨9, by decide, by rw [selWord_phase_bit s i 2, hc]; simp [Ctl.phase, Phase.code]⟩

/-- Outside POLL, the SHUTDOWN level does not change which row is selected (R95). -/
theorem decode_selWord_shutdown (s : State) {i : Instance} (level : Bool) (h : ∀ b, i.ctl ≠ .poll b) :
    decodeCode (.sel (s.selWord { i with shutdown := level })) = decodeCode (.sel (s.selWord i)) := by
  obtain ⟨k, hk, hbit⟩ := exists_phase_bit s h
  simp only [decodeCode, findRow_selRows_congr hk hbit fun n hn => selWord_shut_bit s i level hn]

/-- What a code word does in a state: decode and run. -/
def runCode (c : Code) (s : State) : Out :=
  match decodeCode c with
  | .ok i => exec i s
  | .error r => .refused (refusalOf r)

/-- The end of a step from what was fetched. -/
def Fetched.run : Fetched → Out
  | .ends o => o
  | .code c s => runCode c s

theorem step_eq_run (s : State) : step s = s.fetch.run := by
  unfold step
  cases s.fetch <;> rfl

section Step

variable {s : State} {p : Nat} {level : Bool}

/-- A codec call looks at no instance. -/
theorem runCode_codec_withShutdown {c : Code} (hc : c.format ≠ .sel) :
    runCode c (s.withShutdown p level) = drive p level (runCode c s) := by
  unfold runCode
  cases hd : decodeCode c with
  | ok j => exact exec_codec_withShutdown (decode_codec hc hd)
  | error r => rfl

/-- The transition of an instance that is not p in POLL does not look at p's SHUTDOWN level. -/
theorem runCode_sel_withShutdown {i : Instance} (hi : s.insts[s.cur]? = some i)
    (h : p = s.cur → ∀ b, i.ctl ≠ .poll b) :
    runCode (.sel ((s.withShutdown p level).selWord (driven p level s.cur i))) (s.withShutdown p level) =
      drive p level (runCode (.sel (s.selWord i)) s) := by
  have hd : decodeCode (.sel ((s.withShutdown p level).selWord (driven p level s.cur i))) =
      decodeCode (.sel (s.selWord i)) := by
    by_cases hp : p = s.cur
    · rw [driven, if_pos hp]
      exact decode_selWord_shutdown s level (h hp)
    · rw [driven_other level i hp]
      rfl
  unfold runCode
  rw [hd]
  cases hj : decodeCode (.sel (s.selWord i)) with
  | ok j =>
    refine exec_transition_withShutdown (decode_sel_mem hj) fun i' b hp hi' => ?_
    obtain rfl : i = i' := by simpa [hi] using hi'
    exact h hp b
  | error r => rfl

theorem run_fetchRun_withShutdown {q : Nat} (h : ∀ i b, p = q → s.insts[q]? = some i → i.ctl ≠ .poll b) :
    ((s.withShutdown p level).fetchRun q).run = drive p level (s.fetchRun q).run := by
  rcases fetchRun_cases s q with ⟨hi, e⟩ | ⟨i, hi, hc, e⟩ | ⟨i, hi, hr, hf, e⟩
  · have e' : (s.withShutdown p level).fetchRun q = .ends (.refused .noSuchInstance) := by simp [State.fetchRun, hi]
    rw [e, e']
    rfl
  · have e' : (s.withShutdown p level).fetchRun q = .ends (.next (s.withShutdown p level)) := by
      rcases hc with ⟨b, hc⟩ | ⟨b, hc⟩ <;> simp [State.fetchRun, hi, hc]
    rw [e, e']
    rfl
  · have hi' : (s.withShutdown p level).insts[q]? = some (driven p level q i) := by simp [hi]
    rw [e, fetchRun_of_ready hi' (by simpa using hr) (by simpa using hf)]
    exact runCode_sel_withShutdown (s := s.select q none) hi fun hp b => h i b hp hi

theorem run_fetchRx_withShutdown (q : Nat) (r : ReadResult) :
    ((s.withShutdown p level).fetchRx q r).run = drive p level (s.fetchRx q r).run := by
  rcases fetchRx_cases s q r with ⟨hi, e⟩ | ⟨i, hi, hc, e⟩ | ⟨i, b, hi, hc, hw, e⟩ | ⟨i, b, hi, hc, hw, e⟩
  · have e' : (s.withShutdown p level).fetchRx q r = .ends (.refused .noSuchInstance) := by simp [State.fetchRx, hi]
    rw [e, e']
    rfl
  · have e' : (s.withShutdown p level).fetchRx q r = .ends (.refused .noReadPending) := by
      cases hc' : i.ctl with
      | read b => exact absurd hc' (hc b)
      | _ => simp [State.fetchRx, hi, hc']
    rw [e, e']
    rfl
  · have e' : (s.withShutdown p level).fetchRx q r = .ends (.refused .chunkTooLong) := by
      simp [State.fetchRx, hi, hc, hw]
    rw [e, e']
    rfl
  · have hi' : (s.withShutdown p level).insts[q]? = some (driven p level q i) := by simp [hi]
    rw [e, fetchRx_of_reading hi' (by simpa using hc) (by rw [← chunkFits_eq_wf]; exact hw)]
    exact runCode_sel_withShutdown (s := s.select q (some r)) hi fun _ b => by simp [hc]

theorem popSink_withShutdown : (s.withShutdown p level).popSink = drive p level s.popSink := by
  unfold State.popSink
  rw [withShutdown_sink]
  cases s.sink <;> rfl

/-- Writing the instance at q, driven if it is p's, into the driven state is writing it before p is driven. -/
theorem next_set_withShutdown (q : Nat) (i : Instance) :
    Host.Outcome.next { s.withShutdown p level with insts := (s.withShutdown p level).insts.set q (driven p level q i) } =
      drive p level (.next { s with insts := s.insts.set q i }) := by
  rw [withShutdown_set]
  rfl

theorem driveShutdown_withShutdown {q : Nat} (hq : p ≠ q) (b : Bool) :
    (s.withShutdown p level).driveShutdown q b = drive p level (s.driveShutdown q b) := by
  unfold State.driveShutdown
  rw [withShutdown_getElem?]
  cases s.insts[q]? with
  | none => rfl
  | some i =>
    have h := next_set_withShutdown (s := s) (p := p) (level := level) q { i with shutdown := b }
    rw [driven_other _ _ hq] at h
    simpa [driven_other _ _ hq] using h

theorem createInstance_withShutdown (q : Nat) :
    (s.withShutdown p level).createInstance q = drive p level (s.createInstance q) := by
  unfold State.createInstance
  rw [withShutdown_getElem?]
  cases s.insts[q]? with
  | none => rfl
  | some i =>
    simp only [Option.map_some, driven_ctl, driven_with_ctl]
    cases i.ctl with
    | term => exact next_set_withShutdown ..
    | _ => rfl

theorem run_fetchParse_withShutdown (buf : List Byte) :
    ((s.withShutdown p level).fetchParse buf).run = drive p level (s.fetchParse buf).run := by
  rw [fetchParse_eq, fetchParse_eq]
  refine runCode_codec_withShutdown (s := s.withArgs { s.codec.args with bytes := buf }) ?_
  split <;> simp [Code.format]

/-- Taking the next move looks at no instance. -/
theorem nextMove_withShutdown :
    (s.withShutdown p level).nextMove = (s.nextMove.1, s.nextMove.2.withShutdown p level) := by
  unfold State.nextMove
  cases h : s.env <;> simp [State.withShutdown, h]

end Step

/-- Settles O49: move by move, what is fetched, and so the step, commutes with setting p's SHUTDOWN level. -/
theorem shutdownSeenOnlyInPoll : Obligations.ShutdownSeenOnlyInPoll := by
  intro s p level hrun hdrive
  change step (s.withShutdown p level) = drive p level (step s)
  rcases hn : s.nextMove with ⟨m, u⟩
  have hinsts : u.insts = s.insts := (nextMove_frame hn).2.1
  rw [hn] at hrun hdrive
  simp only [step_eq_run, State.fetch, nextMove_withShutdown, hn]
  cases m with
  | run q =>
    refine run_fetchRun_withShutdown fun i b hp hi => ?_
    subst hp
    exact hrun i b rfl (hinsts ▸ hi)
  | rx q r => exact run_fetchRx_withShutdown q r
  | pop => exact popSink_withShutdown
  | shutdown q b =>
    have hq : p ≠ q := by rintro rfl; exact hdrive b rfl
    exact driveShutdown_withShutdown hq b
  | create q => exact createInstance_withShutdown q
  | call op a => exact runCode_codec_withShutdown (s := u.withArgs a) (by simp [Code.format])
  | parse buf => exact run_fetchParse_withShutdown buf

end Sys2Proof.Machine
end

section
/-! PROOFS. The bounds on BUF that the invariant gives (R66, R175), and what a step that leaves an instance with
BufferOverflow has done (R66, R208). -/

namespace Sys2Proof.Machine

theorem fits_some {m n : Nat} : fits (some m) n = true ↔ n ≤ m := by
  simp [fits]

theorem judge_ne_tooShort (cand rem r : List Byte) : judge cand rem ≠ .tooShort r := by
  rcases judge_cases cand rem with ⟨-, e⟩ | ⟨-, e⟩ <;> simp [e]

/-- A buffer DECODE calls TooShort has at most 7 bytes, and below 5 unless it is in the fixed-length class (R131). -/
theorem decodeBuf_tooShort_bounds {b r : List Byte} (h : decodeBuf b = .tooShort r) :
    b.length ≤ 7 ∧ (5 ≤ b.length → (byteAt b 1).toNat ≤ 5) := by
  rcases decodeBuf_cases b with ⟨hlen, -⟩ | ⟨-, hfixed, hlen, -⟩ | ⟨-, -, e⟩ | ⟨-, -, e⟩
  · omega
  · exact ⟨by omega, fun _ => of_decide_eq_true hfixed⟩
  · exact absurd (e.symm.trans h) (judge_ne_tooShort _ _ r)
  · exact absurd (e.symm.trans h) (judge_ne_tooShort _ _ r)

section InstanceOk

variable {p : Params} {i : Instance} {b : List Byte}

/-- At rest, BUF is not decodable (R175). -/
theorem ok_rest_tooShort (h : i.ok p = true) (hc : i.ctl = .poll b ∨ i.ctl = .read b) : decodeBuf b = .tooShort b := by
  rcases hc with hc | hc
  all_goals
    simp only [Instance.ok, hc, Bool.and_eq_true, decide_eq_true_eq] at h
    exact h.1

/-- While it is drained, BUF is at most what was at rest and one chunk (R66). -/
theorem ok_drained_length {m : Nat} (h : i.ok p = true) (hm : p.readMax = some m)
    (hc : i.ctl = .drain b ∨ ∃ q r, i.ctl = .push b q r) : b.length ≤ 7 + m := by
  rcases hc with hc | ⟨q, r, hc⟩
  all_goals
    simp only [Instance.ok, hc, hm, Option.map_some, Bool.and_eq_true, fits_some] at h
    omega

end InstanceOk

/-- Settles O4: both bounds stand in the invariant of the instance. -/
theorem bufferBounds : Obligations.BufferBounds := by
  intro s i hinv hi
  have hok := hinv.instsOk i hi
  refine ⟨fun b hc => ?_, fun b m hm hc => ok_drained_length hok hm hc⟩
  have hshort := ok_rest_tooShort hok hc
  exact ⟨hshort, decodeBuf_tooShort_bounds hshort⟩

/-- With a finite BUF_CAP, an append overflows exactly when the buffer and the chunk are longer (R66). -/
theorem overflows_iff {s : State} {cap : Nat} (hcap : s.params.bufCap = some cap) (b bytes : List Byte) :
    s.overflows b bytes = true ↔ cap < b.length + bytes.length := by
  simp [State.overflows, hcap, fits]

/-- An instance that is faulted after a transition was so before, or the chunk it read was too long for BUF (R66). -/
theorem transition_faulted {s t : State} {k : Instr} {j : Instance} {b : List Byte} (h : Transition s k t)
    (hj : j ∈ t.insts) (hf : j.ctl = .faulted b) :
    j ∈ s.insts ∨ ∃ i ∈ s.insts, ∃ bytes, i.ctl = .read b ∧ s.rx = some (.ok bytes) ∧ s.overflows b bytes = true := by
  cases h with
  | rxOverflow i b' bytes hi hc hrx _ ho =>
    rcases List.mem_or_eq_of_mem_set hj with hold | rfl
    · exact .inl hold
    · cases hf
      exact .inr ⟨i, List.mem_of_getElem? hi, bytes, hc, hrx, ho⟩
  | pushBlocked | termHalt => exact .inl hj
  | _ =>
    rcases List.mem_or_eq_of_mem_set hj with hold | rfl
    · exact .inl hold
    · cases hf

/-- An instance that is faulted after a step was so before, or its port returned a chunk the port may return (R212)
and BUF had no room for (R66). -/
theorem step_faulted {s t : State} {j : Instance} {b : List Byte} (h : step s = .next t) (hj : j ∈ t.insts)
    (hf : j.ctl = .faulted b) :
    (∃ i ∈ s.insts, i.ctl = .faulted b) ∨
    ∃ i ∈ s.insts, ∃ bytes, i.ctl = .read b ∧ fits s.params.readMax bytes.length = true ∧ s.overflows b bytes = true := by
  rcases hn : s.nextMove with ⟨m, u⟩
  obtain ⟨hparams, hinsts, -⟩ := nextMove_frame hn
  rcases step_cases hn h with ⟨p, -, k, -, -, -, htr⟩ | ⟨-, -, -, -, -, rfl⟩ | ⟨p, r, -, -, k, -, -, -, hchunk, -, htr⟩ |
    ⟨a, k, -, hk, he⟩ | ⟨q, qs, -, -, rfl⟩ | ⟨p, level, i, -, hi, rfl⟩ | ⟨p, i, -, -, -, rfl⟩
  · rcases transition_faulted htr hj hf with hold | ⟨_, _, _, _, hrx, _⟩
    · exact .inl ⟨j, hinsts ▸ hold, hf⟩
    · cases hrx
  · exact .inl ⟨j, hinsts ▸ hj, hf⟩
  · rcases transition_faulted htr hj hf with hold | ⟨i, hi, bytes, hc, hrx, ho⟩
    · exact .inl ⟨j, hinsts ▸ hold, hf⟩
    · cases hrx
      rw [State.overflows, select_params, hparams] at ho
      exact .inr ⟨i, hinsts ▸ hi, bytes, hc, hparams ▸ hchunk, ho⟩
  · rcases codec_next hk he with ⟨v, rfl⟩ | ⟨c, rfl⟩
    · exact .inl ⟨j, hinsts ▸ hj, hf⟩
    · exact .inl ⟨j, hinsts ▸ hj, hf⟩
  · exact .inl ⟨j, hinsts ▸ hj, hf⟩
  · rcases List.mem_or_eq_of_mem_set hj with hold | rfl
    · exact .inl ⟨j, hinsts ▸ hold, hf⟩
    · exact .inl ⟨i, hinsts ▸ List.mem_of_getElem? hi, hf⟩
  · rcases List.mem_or_eq_of_mem_set hj with hold | rfl
    · exact .inl ⟨j, hinsts ▸ hold, hf⟩
    · cases hf

/-- Settles O5: a chunk of READ_MAX bytes fits behind the at most 7 bytes of a buffer at rest. -/
theorem largeBufferNeverOverflows : Obligations.LargeBufferNeverOverflows := by
  intro s t cap m hinv hcap hm hle hnone h j hj b hf
  rcases step_faulted h hj hf with ⟨i, hi, hc⟩ | ⟨i, hi, bytes, hc, hchunk, ho⟩
  · exact hnone i hi b hc
  · obtain ⟨hrest, -⟩ := decodeBuf_tooShort_bounds (ok_rest_tooShort (hinv.instsOk i hi) (.inr hc))
    rw [hm, fits_some] at hchunk
    rw [overflows_iff hcap] at ho
    omega

end Sys2Proof.Machine
end

section
/-! PROOFS. The FRAME rows (R84): the pattern of a row is an unsigned range of function bytes, the eight ranges
partition the 256 values, and each row completes with DECODE's answer on the buffers its function byte selects (R131). -/

namespace Sys2Proof.Machine

/-- A pattern whose mask is all bits from k up selects the 2^k numbers from its match on (R84: the comparison is
unsigned). -/
theorem pattern_iff_range {w : Nat} (k : Nat) {x mask value : BitVec w} (hm : mask = BitVec.allOnes w <<< k)
    (hv : 2 ^ k ∣ value.toNat) :
    (x &&& mask == value) = true ↔ value.toNat ≤ x.toNat ∧ x.toNat < value.toNat + 2 ^ k := by
  obtain ⟨q, hq⟩ := hv
  have hand : (x &&& mask).toNat = 2 ^ k * (x.toNat / 2 ^ k) := by
    rw [hm, ← BitVec.shiftLeft_ushiftRight, BitVec.toNat_shiftLeft, BitVec.toNat_ushiftRight, Nat.shiftLeft_eq,
      Nat.shiftRight_eq_div_pow, mul_comm, Nat.mod_eq_of_lt (lt_of_le_of_lt (Nat.mul_div_le _ _) x.isLt)]
  have hpos : 0 < 2 ^ k := Nat.two_pow_pos k
  calc (x &&& mask == value) = true
      ↔ 2 ^ k * (x.toNat / 2 ^ k) = 2 ^ k * q := by rw [beq_iff_eq, ← BitVec.toNat_inj, hand, hq]
    _ ↔ x.toNat / 2 ^ k = q := Nat.mul_right_inj hpos.ne'
    _ ↔ value.toNat ≤ x.toNat ∧ x.toNat < value.toNat + 2 ^ k := by
      rw [Nat.div_eq_iff hpos, hq, mul_comm q]
      omega

section Ranges

variable (fn : Byte)

@[simp] theorem wf_frameFixed8_00_03 : (Instr.frameFixed8_00_03 fn).wf = true ↔ fn.toNat ≤ 3 :=
  (pattern_iff_range 2 (by decide) (by decide)).trans (by simp; omega)

@[simp] theorem wf_frameFixed8_04_05 : (Instr.frameFixed8_04_05 fn).wf = true ↔ 4 ≤ fn.toNat ∧ fn.toNat ≤ 5 :=
  (pattern_iff_range 1 (by decide) (by decide)).trans (by simp; omega)

@[simp] theorem wf_frameVar_06_07 : (Instr.frameVar_06_07 fn).wf = true ↔ 6 ≤ fn.toNat ∧ fn.toNat ≤ 7 :=
  (pattern_iff_range 1 (by decide) (by decide)).trans (by simp; omega)

@[simp] theorem wf_frameVar_08_0F : (Instr.frameVar_08_0F fn).wf = true ↔ 8 ≤ fn.toNat ∧ fn.toNat ≤ 15 :=
  (pattern_iff_range 3 (by decide) (by decide)).trans (by simp; omega)

@[simp] theorem wf_frameVar_10_1F : (Instr.frameVar_10_1F fn).wf = true ↔ 16 ≤ fn.toNat ∧ fn.toNat ≤ 31 :=
  (pattern_iff_range 4 (by decide) (by decide)).trans (by simp; omega)

@[simp] theorem wf_frameVar_20_3F : (Instr.frameVar_20_3F fn).wf = true ↔ 32 ≤ fn.toNat ∧ fn.toNat ≤ 63 :=
  (pattern_iff_range 5 (by decide) (by decide)).trans (by simp; omega)

@[simp] theorem wf_frameVar_40_7F : (Instr.frameVar_40_7F fn).wf = true ↔ 64 ≤ fn.toNat ∧ fn.toNat ≤ 127 :=
  (pattern_iff_range 6 (by decide) (by decide)).trans (by simp; omega)

@[simp] theorem wf_frameVar_80_FF : (Instr.frameVar_80_FF fn).wf = true ↔ 128 ≤ fn.toNat :=
  (pattern_iff_range 7 (by decide) (by decide)).trans (by simp; omega)

end Ranges

/-- The decoder tests the rows' own patterns, in the order of the table. -/
theorem decodeFn_eq_first_wf (fn : Byte) :
    decodeFn fn =
      if (Instr.frameFixed8_00_03 fn).wf then .frameFixed8_00_03 fn
      else if (Instr.frameFixed8_04_05 fn).wf then .frameFixed8_04_05 fn
      else if (Instr.frameVar_06_07 fn).wf then .frameVar_06_07 fn
      else if (Instr.frameVar_08_0F fn).wf then .frameVar_08_0F fn
      else if (Instr.frameVar_10_1F fn).wf then .frameVar_10_1F fn
      else if (Instr.frameVar_20_3F fn).wf then .frameVar_20_3F fn
      else if (Instr.frameVar_40_7F fn).wf then .frameVar_40_7F fn
      else .frameVar_80_FF fn := rfl

/-- The ranges are disjoint: a function byte decodes to every row that it is well-formed in. -/
theorem decodeFn_of_wf {fn : Byte} {i : Instr} (he : encode i = .frame fn) (hw : i.wf = true) : decodeFn fn = i := by
  cases i with
  | frameFixed8_00_03 | frameFixed8_04_05 | frameVar_06_07 | frameVar_08_0F | frameVar_10_1F | frameVar_20_3F
  | frameVar_40_7F | frameVar_80_FF =>
    cases he
    simp only [wf_frameFixed8_00_03, wf_frameFixed8_04_05, wf_frameVar_06_07, wf_frameVar_08_0F, wf_frameVar_10_1F,
      wf_frameVar_20_3F, wf_frameVar_40_7F, wf_frameVar_80_FF] at hw
    simp (disch := omega) only [decodeFn_eq_first_wf, wf_frameFixed8_00_03, wf_frameFixed8_04_05, wf_frameVar_06_07,
      wf_frameVar_08_0F, wf_frameVar_10_1F, wf_frameVar_20_3F, wf_frameVar_40_7F, if_pos, if_neg]
  | _ => nomatch he

/-- The ranges cover the bytes: what a function byte decodes to is well-formed and carries that byte. -/
theorem decodeFn_wf (fn : Byte) : (decodeFn fn).wf = true ∧ encode (decodeFn fn) = .frame fn := by
  rw [decodeFn_eq_first_wf]
  split_ifs with h1 h2 h3 h4 h5 h6 h7
  case neg =>
    refine ⟨?_, rfl⟩
    simp only [wf_frameFixed8_00_03, wf_frameFixed8_04_05, wf_frameVar_06_07, wf_frameVar_08_0F, wf_frameVar_10_1F,
      wf_frameVar_20_3F, wf_frameVar_40_7F, wf_frameVar_80_FF] at *
    omega
  all_goals exact ⟨‹_›, rfl⟩

/-- Settles O14: in each range the byte is well-formed in that row, so it decodes to it. -/
theorem functionByteMap : Obligations.FunctionByteMap := by
  intro fn
  refine congrArg Except.ok ?_
  split_ifs
  all_goals
    refine decodeFn_of_wf rfl ?_
    simp
    omega

section Dispatched

variable {s : State} {fn : Byte}

/-- From 5 bytes on DECODE is the class the function byte selects: fixed up to 5 (R83, R131). -/
theorem decodeBuf_of_fixed {buf : List Byte} (h : 5 ≤ buf.length) (hf : (byteAt buf 1).toNat ≤ 5) :
    decodeBuf buf = decodeFixed buf := by
  simp [decodeBuf, minLen, isFixed, fixedFcMax, h, hf]

/-- From 5 bytes on DECODE is the class the function byte selects: variable from 6 up (R83, R131). -/
theorem decodeBuf_of_var {buf : List Byte} (h : 5 ≤ buf.length) (hf : 6 ≤ (byteAt buf 1).toNat) :
    decodeBuf buf = decodeVar buf := by
  have hn : ¬ (byteAt buf 1).toNat ≤ 5 := by omega
  simp [decodeBuf, minLen, isFixed, fixedFcMax, h, hn]

/-- A FRAME row that its buffer selects, and whose class decodes the buffer as DECODE does, is the operation DECODE. -/
theorem onFrame_eq_decode {mask value : Byte} {dec : List Byte → DecodeResult} (hlen : 5 ≤ s.codec.args.bytes.length)
    (hfn : byteAt s.codec.args.bytes 1 = fn) (hp : (fn &&& mask == value) = true)
    (hdec : decodeBuf s.codec.args.bytes = dec s.codec.args.bytes) :
    s.onFrame mask value fn dec = exec .decode s := by
  simp [State.onFrame, exec, execDecode, minLen, hlen, hfn, beq_iff_eq.mp hp, hdec]

/-- Every FRAME row completes as the operation DECODE on the buffers of at least 5 bytes that select it (R84, R131). -/
theorem exec_frame_eq_decode {i : Instr} (he : encode i = .frame fn) (hw : i.wf = true)
    (hlen : 5 ≤ s.codec.args.bytes.length) (hfn : byteAt s.codec.args.bytes 1 = fn) : exec i s = exec .decode s := by
  cases i with
  | frameFixed8_00_03 | frameFixed8_04_05 =>
    cases he
    refine onFrame_eq_decode hlen hfn hw (decodeBuf_of_fixed hlen (hfn ▸ ?_))
    simp at hw
    omega
  | frameVar_06_07 | frameVar_08_0F | frameVar_10_1F | frameVar_20_3F | frameVar_40_7F | frameVar_80_FF =>
    cases he
    refine onFrame_eq_decode hlen hfn hw (decodeBuf_of_var hlen (hfn ▸ ?_))
    simp at hw
    omega
  | _ => nomatch he

end Dispatched

/-- Settles O13: the eight rows are those that encode to the function byte. -/
theorem frameRowsAgreeWithDecode : Obligations.FrameRowsAgreeWithDecode := by
  intro s fn hlen hfn i hi hw
  have he : encode i = .frame fn := by
    simp only [List.mem_cons, List.not_mem_nil, or_false] at hi
    rcases hi with rfl | rfl | rfl | rfl | rfl | rfl | rfl | rfl <;> rfl
  have hexec : exec i s = exec .decode s := exec_frame_eq_decode he hw hlen hfn
  exact ⟨hexec, hexec, congrArg Except.ok (decodeFn_of_wf he hw)⟩

end Sys2Proof.Machine
end

section
/-! PROOFS. Decoding and encoding of code words (R84, R94 to R96): the bytes of a code word are that code word, a word is
decoded by the row that it is in, and what decoding rejects is in no row. -/

namespace Sys2Proof.Machine

section Bytes

/-- A 4-bit code in one byte is a number below 16 and reads back. -/
theorem ofBytes_op (c : BitVec 4) : Code.ofBytes .op (Code.bytes (.op c)) = .ok (.op c) := by
  have hlt : (c.setWidth 8).toNat < 16 := by
    rw [BitVec.toNat_setWidth]
    omega
  have hback : (c.setWidth 8).setWidth 4 = c := by simp
  simp only [Code.bytes, Code.ofBytes, hlt, hback, if_true]

/-- A 10-bit word in two bytes, the low one first, has a second byte below 4 and reads back. -/
theorem ofBytes_sel (w : BitVec 10) : Code.ofBytes .sel (Code.bytes (.sel w)) = .ok (.sel w) := by
  have hlt : ((w >>> 8).setWidth 8).toNat < 4 := by
    rw [BitVec.toNat_setWidth, BitVec.toNat_ushiftRight, Nat.shiftRight_eq_div_pow]
    omega
  have hback : (w.setWidth 8).setWidth 10 ||| (((w >>> 8).setWidth 8).setWidth 10 <<< 8) = w := by
    refine BitVec.eq_of_getLsbD_eq fun n hn => ?_
    simp only [BitVec.getLsbD_or, BitVec.getLsbD_setWidth, BitVec.getLsbD_shiftLeft, BitVec.getLsbD_ushiftRight]
    by_cases h : n < 8
    · simp [h, hn]
    · have hsub : 8 + (n - 8) = n := by omega
      have hlow : n - 8 < 8 := by omega
      simp [h, hn, hsub, hlow]
      omega
  simp only [Code.bytes, Code.ofBytes, hlt, hback, if_true]

/-- The bytes of a code word are that code word, in its format (log entry 16). -/
theorem ofBytes_bytes (c : Code) : Code.ofBytes c.format c.bytes = .ok c := by
  cases c with
  | frame fn => rfl
  | op c => exact ofBytes_op c
  | sel w => exact ofBytes_sel w

theorem decodeBytes_bytes (c : Code) : decodeBytes c.format c.bytes = decodeCode c := by
  simp only [decodeBytes, ofBytes_bytes]

end Bytes

section Rows

variable {w : Nat} {rows : List (Row w)} {x : BitVec w} {i : Instr}

theorem findRow_some (h : findRow rows x = some i) : ∃ r ∈ rows, r.hits x = true ∧ r.instr = i := by
  obtain ⟨r, hr, hi⟩ := Option.map_eq_some_iff.mp h
  exact ⟨r, List.mem_of_find?_eq_some hr, List.find?_some (p := fun r : Row w => r.hits x) hr, hi⟩

theorem findRow_eq_none : findRow rows x = none ↔ ∀ r ∈ rows, ¬ r.hits x = true := by
  simp [findRow, List.find?_eq_none]

theorem decode_op_ok {c : BitVec 4} : decodeCode (.op c) = .ok i ↔ findRow opRows c = some i := by
  unfold decodeCode
  cases h : findRow opRows c <;> simp [h]

theorem decode_op_reserved {c : BitVec 4} : decodeCode (.op c) = .error .reservedOp ↔ findRow opRows c = none := by
  unfold decodeCode
  cases h : findRow opRows c <;> simp [h]

theorem decode_sel_ok {x : BitVec 10} : decodeCode (.sel x) = .ok i ↔ findRow selRows x = some i := by
  unfold decodeCode
  cases h : findRow selRows x <;> simp [h]

theorem decode_sel_noRow {x : BitVec 10} : decodeCode (.sel x) = .error .noSelRow ↔ findRow selRows x = none := by
  unfold decodeCode
  cases h : findRow selRows x <;> simp [h]

/-- An OP row looks at all four bits, and its match is the code of its instruction (R94). -/
theorem opRows_encode : ∀ r ∈ opRows, r.mask = BitVec.allOnes 4 ∧ encode r.instr = .op r.value ∧ r.instr.wf = true := by
  decide

/-- The match of a SEL row is the code word of its instruction (R95). -/
theorem selRows_encode : ∀ r ∈ selRows, encode r.instr = .sel r.value ∧ r.instr.wf = true := by
  decide

end Rows

/-- A well-formed instruction is what its code word decodes to. -/
theorem decode_encode {i : Instr} (hw : i.wf = true) : decodeCode (encode i) = .ok i := by
  cases i with
  | frameFixed8_00_03 | frameFixed8_04_05 | frameVar_06_07 | frameVar_08_0F | frameVar_10_1F | frameVar_20_3F
  | frameVar_40_7F | frameVar_80_FF => exact congrArg Except.ok (decodeFn_of_wf rfl hw)
  | _ => rfl

/-- What a code word decodes to is well-formed and encoded in the same format, by the same word but in SEL, where a row
does not look at every bit (log entry 16). -/
theorem encode_of_decode {c : Code} {i : Instr} (h : decodeCode c = .ok i) :
    i.wf = true ∧ (c.format ≠ .sel → encode i = c) ∧ (encode i).format = c.format := by
  cases c with
  | frame fn =>
    cases h
    obtain ⟨hw, he⟩ := decodeFn_wf fn
    exact ⟨hw, fun _ => he, congrArg Code.format he⟩
  | op c =>
    obtain ⟨r, hr, hhit, rfl⟩ := findRow_some (decode_op_ok.mp h)
    obtain ⟨hm, he, hw⟩ := opRows_encode r hr
    have hc : r.value = c := by rw [← beq_iff_eq.mp hhit, hm, BitVec.and_allOnes]
    rw [hc] at he
    exact ⟨hw, fun _ => he, congrArg Code.format he⟩
  | sel x =>
    obtain ⟨r, hr, -, rfl⟩ := findRow_some (decode_sel_ok.mp h)
    obtain ⟨he, hw⟩ := selRows_encode r hr
    exact ⟨hw, fun hne => absurd rfl hne, by rw [he]; rfl⟩

/-- Settles O52: the bytes of a code word are that word, and the decoder's rows are the encoder's. -/
theorem decodeEncodeAgree : Obligations.DecodeEncodeAgree := by
  refine ⟨fun i hw => (decodeBytes_bytes _).trans (decode_encode hw), fun c i h => ?_⟩
  obtain ⟨hw, hword, hformat⟩ := encode_of_decode h
  exact ⟨hw, decode_encode hw, hword, hformat⟩

section Rejected

variable {r : Row 10} {x : BitVec 10}

/-- The fields of a SEL word, as lowest bit and width: PHASE, SHUT, RXS, NZ, ERR, ROOM (R95). -/
def selFields : List (Nat × Nat) := [(7, 3), (6, 1), (4, 2), (3, 1), (1, 2), (0, 1)]

/-- The fields make up the word: a SEL word is in a row when it is so field by field. -/
theorem hits_iff_selFields : r.hits x = true ↔ ∀ f ∈ selFields,
    x.extractLsb' f.1 f.2 &&& r.mask.extractLsb' f.1 f.2 = r.value.extractLsb' f.1 f.2 := by
  refine beq_iff_eq.trans ⟨fun h f _ => by rw [← h, BitVec.extractLsb'_and], fun h => ?_⟩
  have hcover : ∀ n < 10, ∃ f ∈ selFields, f.1 ≤ n ∧ n - f.1 < f.2 := by decide
  refine BitVec.eq_of_getLsbD_eq fun n hn => ?_
  obtain ⟨f, hf, hle, hlt⟩ := hcover n hn
  have hbit := congrArg (·.getLsbD (n - f.1)) (h f hf)
  simpa [← BitVec.extractLsb'_and, BitVec.getLsbD_extractLsb', hlt, Nat.add_sub_cancel' hle] using hbit

/-- A SEL row looks at the whole of a field or at none of it (R95). -/
theorem selRows_whole_fields : ∀ r ∈ selRows, ∀ f ∈ selFields,
    r.mask.extractLsb' f.1 f.2 = BitVec.allOnes f.2 ∨
    r.mask.extractLsb' f.1 f.2 = 0#f.2 ∧ r.value.extractLsb' f.1 f.2 = 0#f.2 := by
  decide

/-- A SEL word is in a row of the table when each field that the row looks at holds the row's number there (R95). -/
theorem selRow_hits_iff (hr : r ∈ selRows) : r.hits x = true ↔ ∀ f ∈ selFields,
    r.mask.extractLsb' f.1 f.2 ≠ 0#f.2 → (x.extractLsb' f.1 f.2).toNat = (r.value.extractLsb' f.1 f.2).toNat := by
  have hwidth : ∀ f ∈ selFields, BitVec.allOnes f.2 ≠ 0#f.2 := by decide
  refine hits_iff_selFields.trans (forall₂_congr fun f hf => ?_)
  rcases selRows_whole_fields r hr f hf with hm | ⟨hm, hv⟩
  · simp only [hm, BitVec.and_allOnes, ne_eq, hwidth f hf, not_false_eq_true, forall_const, BitVec.toNat_inj]
  · simp [hm, hv]

/-- No SEL row is hit exactly with PHASE from 5 up, or with ERR 3 in PHASE 2 (R95): the rows of each
PHASE up to 4 leave out no values of the other fields but ERR 3 in PHASE 2. -/
theorem findRow_selRows_none : findRow selRows x = none ↔
    5 ≤ (x.extractLsb' 7 3).toNat ∨ ((x.extractLsb' 7 3).toNat = 2 ∧ (x.extractLsb' 1 2).toNat = 3) := by
  refine (findRow_eq_none.trans (forall₂_congr fun r hr => not_congr (selRow_hits_iff hr))).trans ?_
  have hphase : (x.extractLsb' 7 3).toNat < 8 := (x.extractLsb' 7 3).isLt
  simp [selRows, selFields, -BitVec.extractLsb'_toNat]
  generalize (x.extractLsb' 7 3).toNat = phase at *
  interval_cases phase <;> simp <;> omega

/-- The twelve OP codes are the numbers below 0xC (R94). -/
theorem findRow_opRows_none : ∀ c : BitVec 4, findRow opRows c = none ↔ 0xC ≤ c.toNat := by
  decide

end Rejected

/-- Settles O53: a word is rejected when no row of its table is hit. -/
theorem rejectedCodeWords : Obligations.RejectedCodeWords :=
  ⟨fun fn => ⟨decodeFn fn, rfl⟩, fun c => decode_op_reserved.trans (findRow_opRows_none c),
    fun _ => decode_sel_noRow.trans findRow_selRows_none⟩

/-- Settles O54: the words are closed, the decoder evaluates them. -/
theorem sampleWordsDecode : Obligations.SampleWordsDecode :=
  ⟨rfl, rfl, rfl, rfl, rfl, rfl, rfl, rfl⟩

end Sys2Proof.Machine
end

section
/-! PROOFS. The CRC-16 family (R111 to R117): what each operation answers, in every state, and the residue: sixteen shift
steps take the received checksum XORed into the register to zero exactly when the two are equal. -/

namespace Sys2Proof.Machine

/-- An instruction whose code word is an OP code has that row of the table (R94). -/
theorem isOpRow_of_encode {i : Instr} {c : BitVec 4} (he : encode i = .op c) (hw : i.wf = true) : isOpRow i c :=
  ⟨he, he ▸ decode_encode hw⟩

/-! The shift step (R112). -/

/-- The polynomial has bit 15 and the shifted value has not: bit 15 tells whether the XOR was taken. -/
theorem crcBitStep_getLsbD_15 (c : Word) : (crcBitStep c).getLsbD 15 = c.getLsbD 0 := by
  unfold crcBitStep
  split
  case isTrue h => simp [h, crcPoly]
  case isFalse h => simpa using h

theorem crcBitStep_eq_zero_iff {c : Word} : crcBitStep c = 0#16 ↔ c = 0#16 := by
  refine ⟨fun h => ?_, by rintro rfl; rfl⟩
  have hlow : c.getLsbD 0 = false := by rw [← crcBitStep_getLsbD_15, h]; rfl
  have hshift : c >>> 1 = 0#16 := by simpa only [crcBitStep, hlow, Bool.false_eq_true, if_false] using h
  refine BitVec.eq_of_getLsbD_eq fun i _ => ?_
  cases i with
  | zero => simpa using hlow
  | succ i => simpa [Nat.add_comm] using congrArg (·.getLsbD i) hshift

/-- What is XORed in with bit 0 clear does not change the test, and is shifted. -/
theorem crcBitStep_xor {x y : Word} (hy : y.getLsbD 0 = false) : crcBitStep (x ^^^ y) = crcBitStep x ^^^ y >>> 1 := by
  simp only [crcBitStep, BitVec.getLsbD_xor, hy, Bool.xor_false, BitVec.ushiftRight_xor_distrib]
  split
  · ac_rfl
  · rfl

/-! Shift steps in a row, and the byte step (R113). -/

theorem iterate_crcBitStep_eq_zero_iff (n : Nat) {c : Word} : crcBitStep^[n] c = 0#16 ↔ c = 0#16 := by
  induction n with
  | zero => rfl
  | succ n ih => rw [Function.iterate_succ_apply', crcBitStep_eq_zero_iff, ih]

/-- A value whose low n bits are clear passes through n steps by being shifted. -/
theorem iterate_crcBitStep_xor (x : Word) {y : Word} {n : Nat} (hy : ∀ k < n, y.getLsbD k = false) :
    crcBitStep^[n] (x ^^^ y) = crcBitStep^[n] x ^^^ y >>> n := by
  induction n with
  | zero => simp
  | succ n ih =>
    have hbit : (y >>> n).getLsbD 0 = false := by simpa using hy n n.lt_succ_self
    rw [Function.iterate_succ_apply', ih fun k hk => hy k (Nat.lt_succ_of_lt hk), crcBitStep_xor hbit,
      ← Function.iterate_succ_apply' crcBitStep, BitVec.shiftRight_add]

/-- The model's repetition is the library's iteration. -/
theorem repeat_crcBitStep (n : Nat) (c : Word) : Nat.repeat crcBitStep n c = crcBitStep^[n] c := by
  induction n with
  | zero => rfl
  | succ n ih => rw [Function.iterate_succ_apply', ← ih]; rfl

theorem crcByteStep_eq_iterate (c : Word) (b : Byte) : crcByteStep c b = crcBitStep^[8] (c ^^^ b.setWidth 16) :=
  repeat_crcBitStep 8 _

/-- The XOR of a byte touches the low half only. -/
theorem xor_byte_high (c : Word) (b : Byte) : (c ^^^ b.setWidth 16).extractLsb' 8 8 = c.extractLsb' 8 8 := by
  have hzero : (b.setWidth 16).extractLsb' 8 8 = 0#8 := BitVec.eq_of_getLsbD_eq fun i _ => by simp
  rw [BitVec.extractLsb'_xor, hzero, BitVec.xor_zero]

/-! Two bytes, low byte first, and the residue (R117). -/

/-- The two halves of a word do not overlap. -/
theorem or_shiftLeft_eq_xor (lo hi : Byte) :
    lo.setWidth 16 ||| hi.setWidth 16 <<< 8 = lo.setWidth 16 ^^^ (hi.setWidth 16 <<< 8 : Word) := by
  refine BitVec.eq_of_getLsbD_eq fun i _ => ?_
  by_cases h : i < 8
  · simp [h]
  · simp [BitVec.getLsbD_of_ge lo i (Nat.le_of_not_lt h)]

/-- A byte in the high half, shifted down again, is the byte. -/
theorem byte_shiftLeft_shiftRight (b : Byte) : ((b.setWidth 16 : Word) <<< 8) >>> 8 = b.setWidth 16 := by
  refine BitVec.eq_of_getLsbD_eq fun i hi => ?_
  by_cases h : i < 8
  · have hi8 : 8 + i < 16 := by omega
    simp [h, hi, hi8]
  · simp [BitVec.getLsbD_of_ge b i (Nat.le_of_not_lt h)]

/-- Two byte steps are sixteen shift steps on the register with both bytes XORed in: the high byte meets the register
eight steps later. -/
theorem crcByteStep_crcByteStep (c : Word) (lo hi : Byte) :
    crcByteStep (crcByteStep c lo) hi = crcBitStep^[16] (c ^^^ (lo.setWidth 16 ||| hi.setWidth 16 <<< 8)) := by
  have hlow : ∀ k < 8, ((hi.setWidth 16 : Word) <<< 8).getLsbD k = false := fun k hk => by simp [hk]
  rw [or_shiftLeft_eq_xor, ← BitVec.xor_assoc, Function.iterate_add_apply crcBitStep 8 8, iterate_crcBitStep_xor _ hlow,
    byte_shiftLeft_shiftRight, ← crcByteStep_eq_iterate, ← crcByteStep_eq_iterate]

/-- The residue (R117): the CRC over a message and two bytes is zero exactly when these are the message's checksum. -/
theorem crc16_append_pair_eq_zero_iff (m : List Byte) (lo hi : Byte) :
    crc16 (m ++ [lo, hi]) = 0#16 ↔ lo.setWidth 16 ||| hi.setWidth 16 <<< 8 = crc16 m := by
  rw [crc16_append, List.foldl_cons, List.foldl_cons, List.foldl_nil, crcByteStep_crcByteStep,
    iterate_crcBitStep_eq_zero_iff, BitVec.xor_eq_zero_iff, eq_comm]

/-- The comparison of a message's checksum with the two bytes that follow it (R115). -/
theorem crcCheck_append_pair (m : List Byte) (lo hi : Byte) :
    crcCheck (m ++ [lo, hi]) = decide (lo.setWidth 16 ||| hi.setWidth 16 <<< 8 = crc16 m) := by
  have hrx : rxChecksum (m ++ [lo, hi]) = lo.setWidth 16 ||| hi.setWidth 16 <<< 8 := by simp [rxChecksum, byteAt]
  have hcov : covered (m ++ [lo, hi]) = m := by simp [covered, slice, crcLen]
  rw [crcCheck, hrx, hcov, beq_eq_decide]

theorem exists_append_pair {α : Type} {l : List α} (h : 2 ≤ l.length) : ∃ m x y, l = m ++ [x, y] := by
  have hlast : (l.drop (l.length - 2)).length = 2 := by rw [List.length_drop]; omega
  obtain ⟨x, y, hxy⟩ := List.length_eq_two.mp hlast
  exact ⟨l.take (l.length - 2), x, y, by rw [← hxy, List.take_append_drop]⟩

/-- The two verdicts on a candidate (R117). -/
theorem crcCheck_eq_residue {cand : List Byte} (h : 2 ≤ cand.length) :
    crcCheck cand = decide (crc16 cand = 0#16) := by
  obtain ⟨m, lo, hi, rfl⟩ := exists_append_pair h
  rw [crcCheck_append_pair, decide_eq_decide, crc16_append_pair_eq_zero_iff]

/-! The operations. -/

section Exec

variable (s : State)

theorem exec_crcInit : exec .crcInit s = .next (s.setCrc crcInit) := rfl

theorem exec_crcBit : exec .crcBit s = .next (s.setCrc (crcBitStep s.codec.crc)) := rfl

theorem exec_crcByte : exec .crcByte s = .next (s.setCrc (crcByteStep s.codec.crc s.codec.args.byte)) := rfl

theorem exec_crc16 : exec .crc16 s = .next (s.returns (.word (crc16 s.codec.args.bytes))) := rfl

theorem exec_crcCheck {s : State} (h : 2 ≤ s.codec.args.bytes.length) :
    exec .crcCheck s = .next (s.returns (.flag (crcCheck s.codec.args.bytes))) := if_pos h

theorem exec_crcCheck_short {s : State} (h : s.codec.args.bytes.length < 2) :
    exec .crcCheck s = .refused .crcCheckTooShort := if_neg (Nat.not_le.mpr h)

/-- CRC.BIT executed n times is n shift steps, and nothing but CRC changes. -/
theorem execTimes_crcBit (n : Nat) : execTimes n .crcBit s = .next (s.setCrc (crcBitStep^[n] s.codec.crc)) := by
  induction n generalizing s with
  | zero => rfl
  | succ n ih => exact ih (s.setCrc (crcBitStep s.codec.crc))

/-- CRC.BYTE executed for each byte leaves in CRC the byte steps, from the first byte on. -/
theorem crcBytesRun_crc (m : List Byte) :
    ∃ t, crcBytesRun m s = .next t ∧ t.codec.crc = m.foldl crcByteStep s.codec.crc := by
  induction m generalizing s with
  | nil => exact ⟨s, rfl, rfl⟩
  | cons b rest ih => exact ih ((s.withArgs { s.codec.args with byte := b }).setCrc (crcByteStep s.codec.crc b))

end Exec

/-- Settles O9: the run of CRC.BYTE over the message is the fold that CRC16 returns. -/
theorem crc16IsInitThenBytes : Obligations.Crc16IsInitThenBytes := by
  refine ⟨isOpRow_of_encode rfl rfl, fun s => ?_, rfl, rfl, by decide +kernel, by decide +kernel, by decide +kernel,
    exec_crc16⟩
  obtain ⟨t, hrun, hcrc⟩ := crcBytesRun_crc (s.setCrc crcInit) s.codec.args.bytes
  exact ⟨_, t, exec_crcInit s, hrun, hcrc ▸ exec_crc16 s⟩

/-- Settles O11, by the residue of a message and two bytes. -/
theorem zeroResidueIsTheSameVerdict : Obligations.ZeroResidueIsTheSameVerdict := by
  refine ⟨fun m => ?_, fun s h => ?_⟩
  · exact (crc16_append_pair_eq_zero_iff m _ _).mpr (word_of_bytes (crc16 m))
  · rw [exec_crcCheck h, crcCheck_eq_residue h]; rfl

/-- Settles O6. -/
theorem crcInitLoadsInitialValue : Obligations.CrcInitLoadsInitialValue :=
  ⟨isOpRow_of_encode rfl rfl, exec_crcInit⟩

/-- Settles O7: CRC.BIT is the shift step, whose bit 15 is the tested bit. -/
theorem crcBitShiftsAndXors : Obligations.CrcBitShiftsAndXors := by
  refine ⟨isOpRow_of_encode rfl rfl, exec_crcBit, fun s t h => ?_, fun s t h => ?_⟩ <;> cases h
  · exact crcBitStep_getLsbD_15 _
  · exact ⟨congrArg crcBitStep, congrArg crcBitStep, congrArg crcBitStep, congrArg crcBitStep⟩

/-- Settles O8: both sides write into CRC the eight shift steps from the register with the byte XORed in. -/
theorem crcByteIsXorThenEightBits : Obligations.CrcByteIsXorThenEightBits := by
  refine ⟨isOpRow_of_encode rfl rfl, fun s => ?_, xor_byte_high, fun s => ⟨_, exec_crcByte s⟩, fun s t h hcrc => ?_⟩
  · rw [exec_crcByte, execTimes_crcBit, crcByteStep_eq_iterate]; rfl
  · cases h
    simp only [setCrc_crc, hcrc]
    exact ⟨fun h => h ▸ by decide, fun h => h ▸ by decide⟩

/-- Settles O10: the candidate's last two bytes against the checksum of the rest; below two bytes it is refused. -/
theorem crcCheckComparesLastTwoBytes : Obligations.CrcCheckComparesLastTwoBytes := by
  refine ⟨isOpRow_of_encode rfl rfl, fun s m lo hi hm => ?_, fun s => exec_crcCheck_short⟩
  rw [exec_crcCheck (by simp [hm]), hm, crcCheck_append_pair]; rfl

end Sys2Proof.Machine
end

section
/-! PROOFS. The frame codec (41_frame_codec.md). DECODE in each of its cases (R132); a candidate passes the checksum
comparison exactly when it is the encoding of its own fields (R81, R86); so DECODE answers Ok exactly on the encoding
of a codec-valid frame with what follows it, from which the round trip, the split and the trailing bytes follow (R146
to R149). -/

namespace Sys2Proof.Machine

/-! DECODE by case (R131, R132). -/

section Cases

variable {buf cand : List Byte}

theorem judge_of_check (h : crcCheck cand = true) (rem : List Byte) : judge cand rem = .ok (frameOf cand) rem :=
  if_pos h

theorem judge_of_not_check (h : crcCheck cand = false) (rem : List Byte) : judge cand rem = .checksumMismatch [] :=
  if_neg (by simp [h])

/-- Too short for any frame, or for a frame of the fixed-length class. -/
theorem decodeBuf_of_short (h : buf.length < 5 ∨ (buf.length < 8 ∧ (byteAt buf 1).toNat ≤ 5)) :
    decodeBuf buf = .tooShort buf := by
  by_cases h5 : buf.length < 5
  · exact if_pos h5
  · obtain ⟨h8, hf⟩ := h.resolve_left h5
    rw [decodeBuf_of_fixed (Nat.le_of_not_lt h5) hf]
    exact if_pos h8

theorem slice_to_end (s : List Byte) (a : Nat) : slice s a s.length = s.drop a := by
  rw [slice, ← List.length_drop, List.take_length]

/-- In the fixed-length class the first eight bytes are the candidate (R131, lines 2 and 3). -/
theorem decodeBuf_of_fixed_long (h : 8 ≤ buf.length) (hf : (byteAt buf 1).toNat ≤ 5) :
    decodeBuf buf = judge (buf.take 8) (buf.drop 8) := by
  rw [decodeBuf_of_fixed (by omega) hf, decodeFixed, fixedLen, if_neg (Nat.not_lt.mpr h), slice_to_end]
  rfl

theorem byteAt_take {i n : Nat} (h : i < n) (s : List Byte) : byteAt (s.take n) i = byteAt s i := by
  simp [byteAt, h]

/-- The fields of a candidate that is the whole buffer (R86). -/
theorem frameOf_eq (buf : List Byte) :
    frameOf buf = ⟨byteAt buf 0, byteAt buf 1, (buf.drop 2).take (buf.length - 4)⟩ := by
  simp [frameOf, slice, hdrLen, crcLen, Nat.sub_sub]

/-- The fields of an eight-byte candidate, read in the buffer (R86). -/
theorem frameOf_take_eight (h : 8 ≤ buf.length) :
    frameOf (buf.take 8) = ⟨byteAt buf 0, byteAt buf 1, (buf.drop 2).take 4⟩ := by
  simp [frameOf_eq, byteAt_take, List.drop_take, List.take_take, h]

end Cases

/-! Candidates and encodings (R81, R86, R135). -/

section Candidates

variable {cand rem r : List Byte} {f : Frame}

/-- The two bytes of a word that was put together from two bytes (R53). -/
theorem crcBytes_word (lo hi : Byte) : crcBytes (lo.setWidth 16 ||| hi.setWidth 16 <<< 8) = [lo, hi] := by
  have hlow : (lo.setWidth 16 ||| hi.setWidth 16 <<< 8).extractLsb' 0 8 = lo :=
    BitVec.eq_of_getLsbD_eq fun i h => by
      have h16 : i < 16 := by omega
      simp [h, h16]
  have hhigh : (lo.setWidth 16 ||| hi.setWidth 16 <<< 8).extractLsb' 8 8 = hi :=
    BitVec.eq_of_getLsbD_eq fun i h => by
      have h16 : 8 + i < 16 := by omega
      simp [h, h16]
  rw [crcBytes, hlow, hhigh]

/-- A candidate of at least 4 bytes is a frame's body and two more bytes. -/
theorem exists_frameBody_append (h : 4 ≤ cand.length) : ∃ f lo hi, cand = frameBody f ++ [lo, hi] := by
  obtain ⟨m, lo, hi, rfl⟩ := exists_append_pair (l := cand) (by omega)
  match m with
  | [] | [_] => simp at h
  | a :: fn :: d => exact ⟨⟨a, fn, d⟩, lo, hi, rfl⟩

theorem frameOf_body_append (f : Frame) (lo hi : Byte) : frameOf (frameBody f ++ [lo, hi]) = f := by
  cases f
  simp [frameOf, frameBody, byteAt, slice, hdrLen, crcLen]

theorem crcCheck_encodeFrame (f : Frame) : crcCheck (encodeFrame f) = true := by
  rw [crcCheck, encodeFrame, rxChecksum_append, covered_append, beq_self_eq_true]

theorem frameOf_encodeFrame (f : Frame) : frameOf (encodeFrame f) = f := frameOf_body_append f _ _

theorem byteAt_encodeFrame_one (f : Frame) : byteAt (encodeFrame f) 1 = f.function := rfl

/-- A candidate passes the comparison exactly when it is the encoding of its own fields. -/
theorem crcCheck_iff_eq_encodeFrame (h : 4 ≤ cand.length) : crcCheck cand = true ↔ cand = encodeFrame (frameOf cand) := by
  refine ⟨fun hc => ?_, fun he => he ▸ crcCheck_encodeFrame _⟩
  obtain ⟨f, lo, hi, rfl⟩ := exists_frameBody_append h
  have hword : lo.setWidth 16 ||| hi.setWidth 16 <<< 8 = crc16 (frameBody f) := by
    simpa [crcCheck_append_pair] using hc
  rw [frameOf_body_append, encodeFrame, ← hword, crcBytes_word]

/-- A candidate that is judged Ok is the encoding of the frame it gives. -/
theorem eq_encodeFrame_of_judge (h : 4 ≤ cand.length) (hj : judge cand rem = .ok f r) :
    cand = encodeFrame f ∧ r = rem := by
  rcases judge_cases cand rem with ⟨hc, e⟩ | ⟨-, e⟩
  · cases e.symm.trans hj
    exact ⟨(crcCheck_iff_eq_encodeFrame h).mp hc, rfl⟩
  · cases e.symm.trans hj

end Candidates

/-! DECODE answers Ok exactly on encodings of codec-valid frames (R146). -/

section Decodes

variable {buf rem : List Byte} {f : Frame}

/-- Codec-valid, with the classes' bounds as numbers (R146). -/
theorem codecValid_iff : codecValid f = true ↔
    (f.function.toNat ≤ 5 ∧ f.data.length = 4) ∨ (6 ≤ f.function.toNat ∧ 1 ≤ f.data.length) := by
  unfold codecValid
  split
  · simp; omega
  · simp; omega

/-- A good candidate of the fixed-length class decodes whatever follows it (R131, line 3). -/
theorem decodeBuf_fixed_append {cand : List Byte} (h : cand.length = 8) (hf : (byteAt cand 1).toNat ≤ 5)
    (hc : crcCheck cand = true) (rem : List Byte) : decodeBuf (cand ++ rem) = .ok (frameOf cand) rem := by
  rw [decodeBuf_of_fixed_long (by simp [h]) (by rwa [byteAt_append_left (by omega)]), List.take_left' h,
    List.drop_left' h, judge_of_check hc]

/-- A buffer that decodes is the encoding of a codec-valid frame and the remainder, of which the variable-length class
has none (R131). -/
theorem eq_encodeFrame_append_of_decode (h : decodeBuf buf = .ok f rem) :
    codecValid f = true ∧ buf = encodeFrame f ++ rem ∧ (6 ≤ f.function.toNat → rem = []) := by
  rw [codecValid_iff]
  by_cases hshort : buf.length < 5 ∨ (buf.length < 8 ∧ (byteAt buf 1).toNat ≤ 5)
  · cases (decodeBuf_of_short hshort).symm.trans h
  by_cases hf : (byteAt buf 1).toNat ≤ 5
  · have h8 : 8 ≤ buf.length := by omega
    have hlen : (buf.take 8).length = 8 := List.length_take_of_le h8
    rw [decodeBuf_of_fixed_long h8 hf] at h
    obtain ⟨hcand, rfl⟩ := eq_encodeFrame_of_judge (by omega) h
    rw [← byteAt_take (by decide : 1 < 8), hcand, byteAt_encodeFrame_one] at hf
    rw [hcand, length_encodeFrame] at hlen
    exact ⟨.inl ⟨hf, by omega⟩, by rw [← hcand, List.take_append_drop], fun hv => by omega⟩
  · have h5 : 5 ≤ buf.length := by omega
    rw [decodeBuf_of_var h5 (by omega)] at h
    obtain ⟨rfl, rfl⟩ := eq_encodeFrame_of_judge (by omega) h
    rw [byteAt_encodeFrame_one] at hf
    rw [length_encodeFrame] at h5
    exact ⟨.inr ⟨by omega, by omega⟩, (List.append_nil _).symm, fun _ => rfl⟩

/-- The encoding of a codec-valid frame decodes to the frame, with what follows it, in the fixed-length class, as the
remainder (R146, R148). -/
theorem decode_encodeFrame_append (hvalid : codecValid f = true) (hrem : 6 ≤ f.function.toNat → rem = []) :
    decodeBuf (encodeFrame f ++ rem) = .ok f rem := by
  have hlen := length_encodeFrame f
  rcases codecValid_iff.mp hvalid with ⟨hf, hd⟩ | ⟨hf, hd⟩
  · rw [decodeBuf_fixed_append (by omega) (by rwa [byteAt_encodeFrame_one]) (crcCheck_encodeFrame f),
      frameOf_encodeFrame]
  · rw [hrem hf, List.append_nil, decodeBuf_of_var (by omega) (by rwa [byteAt_encodeFrame_one]), decodeVar,
      judge_of_check (crcCheck_encodeFrame f), frameOf_encodeFrame]

/-- The buffers that decode (R131, R146). -/
theorem decodeBuf_ok_iff : decodeBuf buf = .ok f rem ↔
    codecValid f = true ∧ buf = encodeFrame f ++ rem ∧ (6 ≤ f.function.toNat → rem = []) := by
  refine ⟨eq_encodeFrame_append_of_decode, ?_⟩
  rintro ⟨hvalid, rfl, hrem⟩
  exact decode_encodeFrame_append hvalid hrem

end Decodes

/-! The operations. -/

section Exec

variable (s : State)

theorem exec_decode : exec .decode s = .next (s.returns (.decoded (decodeBuf s.codec.args.bytes))) := rfl

theorem exec_encode {s : State} (h : ∀ m, s.params.dataMax = some m → s.codec.args.frame.data.length ≤ m) :
    exec .encode s = .next (s.returns (.bytes (encodeFrame s.codec.args.frame))) := by
  simp only [exec, execEncode, byDataMax_within h]

theorem exec_setException :
    exec .setException s = .next (s.returns (.frame (setException s.codec.args.frame s.codec.args.byte))) := rfl

theorem exec_copy : exec .copy s = .next (s.returns (.frame s.codec.args.frame)) := by
  simp only [exec, execCopy, copyFrame, slice_to_end, List.drop_zero]

theorem exec_getFunction : exec .getFunction s = .next (s.returns (.byte s.codec.args.frame.function)) := rfl

theorem exec_getData : exec .getData s = .next (s.returns (.bytes s.codec.args.frame.data)) := rfl

theorem exec_setData {s : State} (h : ∀ m, s.params.dataMax = some m → s.codec.args.bytes.length ≤ m) :
    exec .setData s = .next (s.returns (.frame (setData s.codec.args.frame s.codec.args.bytes))) := by
  simp only [exec, execSetData, byDataMax_within h]

end Exec

theorem or_excBit_of_set {b : Byte} (h : b.getLsbD 7 = true) : b ||| excBit = b := by
  revert b
  decide

/-- With bit 7 set a function byte is in the variable-length class, so one byte of data is enough (R140). -/
theorem setException_codecValid (f : Frame) (code : Byte) : codecValid (setException f code) = true := by
  have hge : excBit.toNat ≤ (f.function ||| excBit).toNat := by
    rw [BitVec.toNat_or]
    exact Nat.right_le_or
  exact codecValid_iff.mpr (.inr ⟨le_trans (by decide) hge, le_rfl⟩)

/-- Settles O16: what ENCODE returns decodes to the frame exactly when the frame is codec-valid. -/
theorem codecRoundTripExactlyForCodecValid : Obligations.CodecRoundTripExactlyForCodecValid := by
  intro s s₁ s₂ f out d hmax hencode hout hdecode hd
  rw [exec_encode hmax] at hencode
  cases hencode
  cases hout
  rw [exec_decode] at hdecode
  cases hdecode
  cases hd
  have hself : encodeFrame f = encodeFrame f ++ [] := (List.append_nil _).symm
  exact decodeBuf_ok_iff.trans ((and_iff_left ⟨hself, fun _ => rfl⟩).trans codecValid_iff)

/-- Settles O12, row by row of the table. -/
theorem decodeByCase : Obligations.DecodeByCase := by
  refine ⟨isOpRow_of_encode rfl rfl, fun s => ⟨_, exec_decode s, ?_⟩⟩
  rintro buf rfl
  generalize s.codec.args.bytes = buf
  refine ⟨fun h => decodeBuf_of_short (.inl h), fun _ h hf => decodeBuf_of_short (.inr ⟨h, hf⟩), ?fixed, ?fixedBad,
    ?var, ?varBad⟩
  case fixed =>
    intro h hf hc
    rw [decodeBuf_of_fixed_long h hf, judge_of_check hc, frameOf_take_eight h]
    rfl
  case fixedBad =>
    intro h hf hc
    rw [decodeBuf_of_fixed_long h hf, judge_of_not_check hc]
  case var =>
    intro h hf hc
    rw [decodeBuf_of_var h hf, decodeVar, judge_of_check hc, frameOf_eq]
    rfl
  case varBad =>
    intro h hf hc
    rw [decodeBuf_of_var h hf, decodeVar, judge_of_not_check hc]

/-- Settles O17: the shape of a buffer that decodes; a codec-valid frame has data, so its encoding has 5 bytes or more. -/
theorem decodedBufferIsEncodingAndRemainder : Obligations.DecodedBufferIsEncodingAndRemainder := by
  intro buf rem f h
  obtain ⟨hvalid, rfl, hrem⟩ := eq_encodeFrame_append_of_decode h
  have hdata : 1 ≤ f.data.length := by
    rcases codecValid_iff.mp hvalid with ⟨-, hd⟩ | ⟨-, hd⟩ <;> omega
  refine ⟨rfl, hvalid, List.ne_nil_of_length_pos hdata, hrem, ?_⟩
  rw [List.length_append, length_encodeFrame]
  omega

/-- Settles O18: in the variable-length class both buffers would be the frame's encoding. -/
theorem trailingBytesOnlyInFixedClass : Obligations.TrailingBytesOnlyInFixedClass := by
  intro buf rem f h
  obtain ⟨hvalid, rfl, hrem⟩ := eq_encodeFrame_append_of_decode h
  refine ⟨fun hf t => ?_, fun hf t ht r h' => ?_⟩
  · rw [List.append_assoc]
    exact decode_encodeFrame_append hvalid fun hv => by omega
  · obtain ⟨-, heq, hr⟩ := eq_encodeFrame_append_of_decode h'
    rw [hrem hf, hr hf, List.append_nil] at heq
    exact ht (List.append_right_eq_self.mp heq)

/-- Settles O20: the bounds on a TooShort buffer, and conversely DECODE of a short one. -/
theorem tooShortKeepsTheBuffer : Obligations.TooShortKeepsTheBuffer := by
  intro buf rem
  constructor
  · intro h
    obtain ⟨hlen, hfixed⟩ := decodeBuf_tooShort_bounds h
    refine ⟨decodeBuf_tooShort_self h, ?_⟩
    by_cases h5 : buf.length < 5
    · exact .inl h5
    · exact .inr ⟨Nat.lt_succ_of_le hlen, hfixed (Nat.le_of_not_lt h5)⟩
  · rintro ⟨rfl, h⟩
    exact decodeBuf_of_short h

/-- Settles O15: within DATA_MAX the bytes are the frame's encoding. -/
theorem encodeAppendsLittleEndianCrc : Obligations.EncodeAppendsLittleEndianCrc := by
  refine ⟨isOpRow_of_encode rfl rfl, fun s a f d hframe hmax => ⟨?_, length_encodeFrame _⟩, fun s m _ _ => ⟨_, rfl⟩⟩
  rw [exec_encode (by rwa [hframe]), hframe]
  rfl

/-- Settles O19: the first eight bytes are the first frame, and what follows them is the second. -/
theorem twoFixedFramesSplit : Obligations.TwoFixedFramesSplit := by
  intro a b ha hb hfa hfb hca hcb
  have hfirst := decodeBuf_fixed_append ha hfa hca b
  have hsecond := decodeBuf_fixed_append hb hfb hcb []
  rw [frameOf_eq, ha] at hfirst
  rw [frameOf_eq, hb, List.append_nil] at hsecond
  exact ⟨hfirst, hsecond⟩

/-- Settles O21: DECODE of a short buffer, and in each class with a failed comparison. -/
theorem corruptChecksumEmptiesRemainder : Obligations.CorruptChecksumEmptiesRemainder := by
  refine ⟨fun buf => decodeBuf_of_short, fun buf h5 => ⟨fun hf h8 hc => ?_, fun hf hc => ?_⟩⟩
  · rw [decodeBuf_of_fixed_long h8 hf, judge_of_not_check hc]
  · rw [decodeBuf_of_var h5 hf, decodeVar, judge_of_not_check hc]

/-- Settles O22: the changed frame is codec-valid, so its encoding decodes to it. -/
theorem setExceptionSetsBitSevenAndCode : Obligations.SetExceptionSetsBitSevenAndCode := by
  refine ⟨isOpRow_of_encode rfl rfl, fun s => ⟨_, exec_setException s, rfl, rfl, rfl, or_excBit_of_set,
    length_encodeFrame _, ?_⟩⟩
  simpa using decode_encodeFrame_append (setException_codecValid s.codec.args.frame s.codec.args.byte) fun _ => rfl

/-- Settles O23: the slice that COPY takes is the whole data. -/
theorem copyReturnsEqualFrame : Obligations.CopyReturnsEqualFrame :=
  ⟨isOpRow_of_encode rfl rfl, exec_copy⟩

/-- Settles O24: each accessor's rule; beyond a finite DATA_MAX the data is whatever the model returns. -/
theorem accessorsReadAndReplace : Obligations.AccessorsReadAndReplace :=
  ⟨isOpRow_of_encode rfl rfl, isOpRow_of_encode rfl rfl, isOpRow_of_encode rfl rfl, exec_getFunction, exec_getData,
    fun _ => exec_setData, fun _ _ _ _ => ⟨_, rfl⟩⟩

end Sys2Proof.Machine
end

section
/-! PROOFS. Every move that is possible completes: a transition whose rule applies is what its instruction does, the SEL
word selects such a transition for the instance that moves (R95, R160), and every codec operation is total (R131). -/

namespace Sys2Proof.Machine

/-- The instruction of a transition whose rule applies does that transition. -/
theorem exec_of_transition {s t : State} {j : Instr} (h : Transition s j t) : exec j s = .next t := by
  cases h with
  | pollShutdown i b hi hc hs | pollContinue i b hi hc hs =>
    exact (onSelected_eq hi _).trans (by simp [hc, hs, State.terminate])
  | rxData i b bytes hi hc hr hb ho | rxOverflow i b bytes hi hc hr hb ho =>
    obtain ⟨x, xs, rfl⟩ := List.exists_cons_of_ne_nil hb
    exact (onRead_eq hi hc hr _).trans (by simp [ho, State.raiseBufferOverflow])
  | rxZero i b hi hc hr | rxTimeout i b hi hc hr | rxFatal i b hi hc hr => exact onRead_eq hi hc hr _
  | rxEosTimeout i b hi hc hr he | rxEosFatal i b hi hc hr he | rxEosZero i b hi hc hr he =>
    exact (onRead_eq hi hc hr _).trans (by simp [he, State.lineIdle, State.backToPoll, State.terminate])
  | drainTooShort i b r hi hc hd | drainBadCrc i b r hi hc hd | drainOk i b r f hi hc hd =>
    exact (onSelected_eq hi _).trans (by simp [hc, hd, State.backToPoll])
  | pushComplete i b r q hi hc hr | pushBlocked i b r q hi hc hr => exact (onSelected_eq hi _).trans (by simp [hc, hr])
  | termHalt i hi hc => exact (onSelected_eq hi _).trans (by simp [hc])

/-! The SEL word of an instance that can move selects a transition whose rule applies. -/

/-- The SEL word with these fields (R95). -/
def selBits (phase : BitVec 3) (shut : Bool) (rxs : BitVec 2) (nz : Bool) (err : BitVec 2) (room : Bool) : BitVec 10 :=
  phase ++ BitVec.ofBool shut ++ rxs ++ BitVec.ofBool nz ++ err ++ BitVec.ofBool room

/-- The SEL table read by PHASE: what each phase looks at, and the transition it selects (R95). -/
def selected (phase : Phase) (shut : Bool) (rxs : BitVec 2) (nz : Bool) (err : BitVec 2) (room : Bool) : Instr :=
  match phase with
  | .poll => if shut then .pollShutdown else .pollContinue
  | .read =>
    if rxs = 0#2 then (if nz then .rxData else .rxZero)
    else if rxs = 1#2 then .rxTimeout else if rxs = 2#2 then .rxFatal else .rxEos
  | .drain => if err = 0#2 then .drainOk else if err = 1#2 then .drainTooShort else .drainBadCrc
  | .push => if room then .pushComplete else .pushBlocked
  | .term => .termHalt

/-- The decoder agrees with that reading, but for ERR 3 in DRAIN, which is in no row. -/
theorem decode_selBits (phase : Phase) : ∀ shut rxs nz err room, (phase = .drain → err ≠ 3#2) →
    decodeCode (.sel (selBits phase.code shut rxs nz err room)) = .ok (selected phase shut rxs nz err room) := by
  cases phase <;> decide +kernel

/-- No status has the code 3 (R201). -/
theorem errField_ne_three (c : Ctl) : c.errField ≠ 3#2 := by
  unfold Ctl.errField
  cases c.buf with
  | none => decide
  | some b =>
    show (decodeBuf b).status.code ≠ 3#2
    cases (decodeBuf b).status <;> decide

theorem decode_selWord (s : State) (i : Instance) : decodeCode (.sel (s.selWord i)) =
    .ok (selected i.ctl.phase i.shutdown s.rxsField s.nzField i.ctl.errField s.room) :=
  decode_selBits _ _ _ _ _ _ fun _ => errField_ne_three i.ctl

/-- The rule of the selected transition applies, unless the instance is faulted or waits for its read (R160). -/
theorem exists_transition {s : State} {i : Instance} (hi : s.insts[s.cur]? = some i) (hf : ∀ b, i.ctl ≠ .faulted b)
    (hr : (∃ b, i.ctl = .read b) → s.rx ≠ none) :
    ∃ t, Transition s (selected i.ctl.phase i.shutdown s.rxsField s.nzField i.ctl.errField s.room) t := by
  cases hc : i.ctl with
  | poll b =>
    cases hs : i.shutdown
    · exact ⟨_, .pollContinue i b hi hc hs⟩
    · exact ⟨_, .pollShutdown i b hi hc hs⟩
  | read b =>
    obtain ⟨r, hrx⟩ := Option.ne_none_iff_exists'.mp (hr ⟨b, hc⟩)
    simp only [State.rxsField, State.nzField, hrx]
    cases r with
    | ok bytes =>
      cases bytes with
      | nil => exact ⟨_, .rxZero i b hi hc hrx⟩
      | cons x xs =>
        cases ho : s.overflows b (x :: xs)
        · exact ⟨_, .rxData i b _ hi hc hrx (by simp) ho⟩
        · exact ⟨_, .rxOverflow i b _ hi hc hrx (by simp) ho⟩
    | timeout => exact ⟨_, .rxTimeout i b hi hc hrx⟩
    | fatal => exact ⟨_, .rxFatal i b hi hc hrx⟩
    | eos =>
      cases he : s.params.eosAs
      · exact ⟨_, .rxEosTimeout i b hi hc hrx he⟩
      · exact ⟨_, .rxEosFatal i b hi hc hrx he⟩
      · exact ⟨_, .rxEosZero i b hi hc hrx he⟩
  | drain b =>
    simp only [Ctl.errField, Ctl.buf]
    cases hd : decodeBuf b with
    | ok f r => exact ⟨_, .drainOk i b r f hi hc hd⟩
    | tooShort r => exact ⟨_, .drainTooShort i b r hi hc hd⟩
    | checksumMismatch r => exact ⟨_, .drainBadCrc i b r hi hc hd⟩
  | push b q r =>
    cases hroom : s.room
    · exact ⟨_, .pushBlocked i b r q hi hc hroom⟩
    · exact ⟨_, .pushComplete i b r q hi hc hroom⟩
  | term => exact ⟨_, .termHalt i hi hc⟩
  | faulted b => exact absurd hc (hf b)

/-- The SEL word of an instance that can move runs to a next state. -/
theorem runCode_sel_completes {s : State} {i : Instance} (hi : s.insts[s.cur]? = some i)
    (hf : ∀ b, i.ctl ≠ .faulted b) (hr : (∃ b, i.ctl = .read b) → s.rx ≠ none) :
    ∃ t, runCode (.sel (s.selWord i)) s = .next t := by
  obtain ⟨t, ht⟩ := exists_transition hi hf hr
  exact ⟨t, by simp only [runCode, decode_selWord, exec_of_transition ht]⟩

/-! A codec call completes. -/

theorem le_of_callWf {op : BitVec 4} {a : Args} (h : callWf op a = true) : op.toNat ≤ 0xB := by
  unfold callWf at h
  split at h
  case h_1 heq => omega
  case h_2 => exact of_decide_eq_true h

/-- A well-formed call runs to a next state: CRC.CHECK alone asks for a length (R115). -/
theorem runCode_op_completes {s : State} {op : BitVec 4} (h : callWf op s.codec.args = true) :
    ∃ t, runCode (.op op) s = .next t := by
  have hop := le_of_callWf h
  cases hd : findRow opRows op with
  | none =>
    have hreserved := (findRow_opRows_none op).mp hd
    omega
  | some i =>
    have hdec : decodeCode (.op op) = .ok i := decode_op_ok.mpr hd
    have he : encode i = .op op := (encode_of_decode hdec).2.1 (by simp [Code.format])
    simp only [runCode, hdec]
    cases i with
    | crcCheck =>
      cases he
      exact ⟨_, exec_crcCheck (of_decide_eq_true h)⟩
    | crc16 | decode | encode | setException | copy | getFunction | getData | setData | crcInit | crcByte | crcBit =>
      exact ⟨_, rfl⟩
    | _ => cases he

/-- A buffer given to the parser is decoded, by its row or, below 5 bytes, by DECODE itself (R51, R84). -/
theorem run_fetchParse_completes (s : State) (buf : List Byte) : ∃ t, (s.fetchParse buf).run = .next t := by
  rw [fetchParse_eq]
  split
  case isTrue => exact ⟨_, rfl⟩
  case isFalse h =>
    obtain ⟨hw, he⟩ := decodeFn_wf (byteAt buf 1)
    exact ⟨_, exec_frame_eq_decode he hw (Nat.le_of_not_lt h) rfl⟩

/-! Every other move completes where it is possible. -/

section Moves

variable {s : State} {p : Nat}

theorem run_fetchRun_completes (hp : p < s.insts.length) : ∃ t, (s.fetchRun p).run = .next t := by
  rcases fetchRun_cases s p with ⟨hnone, -⟩ | ⟨i, -, -, e⟩ | ⟨i, hi, hr, hf, e⟩
  · rw [List.getElem?_eq_getElem hp] at hnone
    cases hnone
  · exact ⟨s, congrArg Fetched.run e⟩
  · rw [e]
    exact runCode_sel_completes hi hf fun ⟨b, hc⟩ => absurd hc (hr b)

theorem run_fetchRx_completes {r : ReadResult} (hw : r.wf s.params = true)
    (hp : ∃ i b, s.insts[p]? = some i ∧ i.ctl = .read b) : ∃ t, (s.fetchRx p r).run = .next t := by
  obtain ⟨i, b, hi, hc⟩ := hp
  rw [fetchRx_of_reading hi hc hw]
  exact runCode_sel_completes hi (by simp [hc]) fun _ => by simp

theorem popSink_completes (h : s.sink ≠ []) : ∃ t, s.popSink = .next t := by
  obtain ⟨q, qs, hs⟩ := List.exists_cons_of_ne_nil h
  exact ⟨{ s with sink := qs }, by simp only [State.popSink, hs]⟩

theorem driveShutdown_completes (hp : p < s.insts.length) (level : Bool) : ∃ t, s.driveShutdown p level = .next t := by
  simp only [State.driveShutdown, List.getElem?_eq_getElem hp]
  exact ⟨_, rfl⟩

theorem createInstance_completes (hp : ∃ i, s.insts[p]? = some i ∧ i.ctl = .term) :
    ∃ t, s.createInstance p = .next t := by
  obtain ⟨i, hi, hc⟩ := hp
  simp only [State.createInstance, hi, hc]
  exact ⟨_, rfl⟩

end Moves

/-- Settles O44, move by move. -/
theorem everyPossibleMoveCompletes : Obligations.EveryPossibleMoveCompletes := by
  intro s m rest he hw hp
  simp only [step_eq_run, State.fetch, nextMove_of_env_cons he]
  cases m with
  | run p => exact run_fetchRun_completes (of_decide_eq_true hw)
  | rx p r => exact run_fetchRx_completes (Bool.and_eq_true_iff.mp hw).2 hp
  | pop => exact popSink_completes hp
  | shutdown p level => exact driveShutdown_completes (s := { s with env := rest }) (of_decide_eq_true hw) level
  | create p => exact createInstance_completes hp
  | call op a => exact runCode_op_completes hw
  | parse buf => exact run_fetchParse_completes _ buf

end Sys2Proof.Machine
end

section
/-! PROOFS. Every step keeps the invariant: writing an instance that is as it should be, under the same port, keeps it;
each transition writes such an instance (R66, R171, R175), and a hand-off appends a codec-valid Request of an existing
port where there is room (R34, R177, R222). -/

namespace Sys2Proof.Machine

/-- The invariant looks at the parameters, the instances and SINK only. -/
theorem State.Inv.congr {s t : State} (h : s.Inv) (hparams : t.params = s.params) (hinsts : t.insts = s.insts)
    (hsink : t.sink = s.sink) : t.Inv := by
  obtain ⟨⟩ := t
  cases hparams
  cases hinsts
  cases hsink
  exact ⟨h.params, h.portsExist, h.portsApart, h.sinkFits, h.sinkValid, h.sinkPorts, h.instsOk⟩

section Keeps

variable {s : State} {p : Nat} {i j : Instance}

theorem State.Inv.endRead (h : s.Inv) : s.endRead.Inv := h.congr rfl rfl rfl

theorem State.Inv.select (h : s.Inv) (p : Nat) (r : Option ReadResult) : (s.select p r).Inv := h.congr rfl rfl rfl

/-- An instance as `Instance.ok` says may take the place of one with its port. -/
theorem State.Inv.set (h : s.Inv) (hi : s.insts[p]? = some i) (hport : j.portId = i.portId)
    (hok : j.ok s.params = true) : State.Inv { s with insts := s.insts.set p j } := by
  have hports : (s.insts.set p j).map Instance.portId = s.insts.map Instance.portId := by
    have hid : (s.insts.map Instance.portId)[p]? = some j.portId := by simp [hi, hport]
    rw [List.map_set, set_getElem?_self hid]
  exact
    { params := h.params
      portsExist := by simpa using h.portsExist
      portsApart := hports ▸ h.portsApart
      sinkFits := h.sinkFits
      sinkValid := h.sinkValid
      sinkPorts := hports ▸ h.sinkPorts
      instsOk := fun k hk => (List.mem_or_eq_of_mem_set hk).elim (h.instsOk k) fun he => he ▸ hok }

/-- The selected instance may be given registers that `Instance.ok` admits. -/
theorem State.Inv.setCtl {c : Ctl} (h : s.Inv) (hi : s.insts[s.cur]? = some i)
    (hok : Instance.ok s.params { i with ctl := c } = true) : (s.setCtl i c).Inv := h.set hi rfl hok

/-- The consumer only takes Requests away. -/
theorem State.Inv.pop {q : Request} {qs : List Request} (h : s.Inv) (hs : s.sink = q :: qs) :
    State.Inv { s with sink := qs } where
  params := h.params
  portsExist := h.portsExist
  portsApart := h.portsApart
  sinkFits := (Nat.le_succ qs.length).trans (by simpa [hs] using h.sinkFits)
  sinkValid := fun q' hq => h.sinkValid q' (hs ▸ List.mem_cons_of_mem q hq)
  sinkPorts := fun q' hq => h.sinkPorts q' (hs ▸ List.mem_cons_of_mem q hq)
  instsOk := h.instsOk

/-- With room, a codec-valid Request of an existing port may be appended. -/
theorem State.Inv.append {q : Request} (h : s.Inv) (hroom : s.room = true) (hvalid : codecValid q.frame = true)
    (hport : q.port ∈ s.insts.map Instance.portId) : State.Inv { s with sink := s.sink ++ [q] } where
  params := h.params
  portsExist := h.portsExist
  portsApart := h.portsApart
  sinkFits := by simpa using of_decide_eq_true hroom
  sinkValid := by simpa [or_imp, forall_and] using ⟨h.sinkValid, hvalid⟩
  sinkPorts := List.forall_mem_append.mpr ⟨h.sinkPorts, by simpa using hport⟩
  instsOk := h.instsOk

end Keeps

/-! What `Instance.ok` asks, by control state. -/

section InstanceOk

variable {p : Params} {i : Instance} {b r : List Byte} {q : Request}

theorem fits_of_le {bound : Option Nat} {m n : Nat} (h : fits bound n = true) (hle : m ≤ n) : fits bound m = true := by
  cases bound with
  | none => rfl
  | some c => exact fits_some.mpr (hle.trans (fits_some.mp h))

/-- A chunk the port may return, behind a buffer at rest, is within the bound of R66. -/
theorem fits_rest_add_chunk {bound : Option Nat} {m n : Nat} (hm : m ≤ 7) (h : fits bound n = true) :
    fits (bound.map (7 + ·)) (m + n) = true := by
  cases bound with
  | none => rfl
  | some c => exact fits_some.mpr (Nat.add_le_add hm (fits_some.mp h))

theorem ok_rest_iff (hc : i.ctl = .poll b ∨ i.ctl = .read b ∨ i.ctl = .faulted b) :
    i.ok p = true ↔ decodeBuf b = .tooShort b ∧ fits p.bufCap b.length = true := by
  rcases hc with hc | hc | hc <;> simp [Instance.ok, hc]

theorem ok_drain_iff (hc : i.ctl = .drain b) :
    i.ok p = true ↔ fits (p.readMax.map (7 + ·)) b.length = true ∧ fits p.bufCap b.length = true := by
  simp [Instance.ok, hc]

theorem ok_push_iff (hc : i.ctl = .push b q r) :
    i.ok p = true ↔ (decodeBuf b = .ok q.frame r ∧ q.port = i.portId) ∧
      fits (p.readMax.map (7 + ·)) b.length = true ∧ fits p.bufCap b.length = true := by
  simp [Instance.ok, hc, and_assoc]

/-- An instance at rest with an empty buffer (R39, R164). -/
theorem ok_poll_nil (hc : i.ctl = .poll []) : i.ok p = true :=
  (ok_rest_iff (.inl hc)).mpr ⟨decodeBuf_of_short (.inl (by decide)), by cases h : p.bufCap <;> simp [fits]⟩

/-- The remainder of a buffer that decodes is no longer than the buffer. -/
theorem length_remainder_lt {f : Frame} (h : decodeBuf b = .ok f r) : r.length < b.length := by
  obtain ⟨-, rfl, -⟩ := eq_encodeFrame_append_of_decode h
  rw [List.length_append, length_encodeFrame]
  omega

end InstanceOk

/-- A transition writes an instance that is as it should be, if the chunk it reads is one the port may return. -/
theorem transition_keeps_inv {s t : State} {k : Instr} (h : s.Inv)
    (hchunk : ∀ bytes, s.rx = some (.ok bytes) → fits s.params.readMax bytes.length = true)
    (htr : Transition s k t) : t.Inv := by
  cases htr with
  | pollShutdown i b hi hc => exact h.setCtl hi rfl
  | rxFatal i b hi hc | rxEosFatal i b hi hc => exact (h.setCtl hi rfl).endRead
  | rxTimeout i b hi hc | rxEosTimeout i b hi hc => exact (h.setCtl hi (ok_poll_nil rfl)).endRead
  | pollContinue i b hi hc =>
    have hrest := (ok_rest_iff (.inl hc)).mp (h.instsOk i (List.mem_of_getElem? hi))
    exact h.setCtl hi ((ok_rest_iff (.inr (.inl rfl))).mpr hrest)
  | rxZero i b hi hc | rxEosZero i b hi hc =>
    have hrest := (ok_rest_iff (.inr (.inl hc))).mp (h.instsOk i (List.mem_of_getElem? hi))
    exact (h.setCtl hi ((ok_rest_iff (.inl rfl)).mpr hrest)).endRead
  | rxOverflow i b bytes hi hc =>
    have hrest := (ok_rest_iff (.inr (.inl hc))).mp (h.instsOk i (List.mem_of_getElem? hi))
    exact (h.setCtl hi ((ok_rest_iff (.inr (.inr rfl))).mpr hrest)).endRead
  | rxData i b bytes hi hc hrx _ ho =>
    obtain ⟨hshort, -⟩ := (ok_rest_iff (.inr (.inl hc))).mp (h.instsOk i (List.mem_of_getElem? hi))
    have hread := fits_rest_add_chunk (decodeBuf_tooShort_bounds hshort).1 (hchunk bytes hrx)
    have hcap : fits s.params.bufCap (b.length + bytes.length) = true := by simpa [State.overflows] using ho
    rw [← List.length_append] at hread hcap
    exact (h.setCtl hi ((ok_drain_iff rfl).mpr ⟨hread, hcap⟩)).endRead
  | drainTooShort i b r hi hc hd =>
    obtain ⟨-, hcap⟩ := (ok_drain_iff hc).mp (h.instsOk i (List.mem_of_getElem? hi))
    obtain rfl := decodeBuf_tooShort_self hd
    exact h.setCtl hi ((ok_rest_iff (.inl rfl)).mpr ⟨hd, hcap⟩)
  | drainBadCrc i b r hi hc hd =>
    obtain rfl := decodeBuf_mismatch_nil hd
    exact h.setCtl hi (ok_poll_nil rfl)
  | drainOk i b r f hi hc hd =>
    have hbounds := (ok_drain_iff hc).mp (h.instsOk i (List.mem_of_getElem? hi))
    exact h.setCtl hi ((ok_push_iff rfl).mpr ⟨⟨hd, rfl⟩, hbounds⟩)
  | pushComplete i b r q hi hc hroom =>
    have hmem := List.mem_of_getElem? hi
    obtain ⟨⟨hd, hport⟩, hread, hcap⟩ := (ok_push_iff hc).mp (h.instsOk i hmem)
    obtain ⟨hvalid, -⟩ := eq_encodeFrame_append_of_decode hd
    have hle := (length_remainder_lt hd).le
    have hsink := h.append hroom hvalid (hport ▸ List.mem_map_of_mem hmem)
    exact hsink.setCtl hi ((ok_drain_iff rfl).mpr ⟨fits_of_le hread hle, fits_of_le hcap hle⟩)
  | pushBlocked | termHalt => exact h

/-- Settles O3: taking the move changes nothing the invariant looks at; then each kind of step keeps it. -/
theorem stepKeepsInvariant : Obligations.StepKeepsInvariant := by
  intro s t h hstep
  rcases hn : s.nextMove with ⟨m, u⟩
  obtain ⟨hparams, hinsts, hsink, -⟩ := nextMove_frame hn
  have hu : u.Inv := h.congr hparams hinsts hsink
  rcases step_cases hn hstep with ⟨p, -, k, -, -, -, htr⟩ | ⟨-, -, -, -, -, rfl⟩ |
    ⟨p, r, -, -, k, -, -, -, hchunk, -, htr⟩ | ⟨a, k, -, hk, he⟩ | ⟨q, qs, -, hs, rfl⟩ | ⟨p, level, i, -, hi, rfl⟩ |
    ⟨p, i, -, hi, -, rfl⟩
  · exact transition_keeps_inv (hu.select p _) (fun _ hrx => by cases hrx) htr
  · exact hu
  · refine transition_keeps_inv (hu.select p _) (fun bytes hrx => ?_) htr
    cases hrx
    exact hchunk
  · rcases codec_next hk he with ⟨v, rfl⟩ | ⟨c, rfl⟩
    · exact hu.congr rfl rfl rfl
    · exact hu.congr rfl rfl rfl
  · exact hu.pop hs
  · exact hu.set hi rfl (hu.instsOk i (List.mem_of_getElem? hi))
  · exact hu.set hi rfl (ok_poll_nil rfl)

end Sys2Proof.Machine
end

section
/-! PROOFS. The SEL rows (R95): the words of a row are exactly those that decode to its instruction, and what each
transition answers where its rule applies (R161 to R174). In any state at most one of the rules applies (R160). -/

namespace Sys2Proof.Machine

/-- No word is in two rows: where both rows look, their matches differ (R95). -/
theorem selRows_disjoint : ∀ r ∈ selRows, ∀ r' ∈ selRows, r.value &&& r'.mask = r'.value &&& r.mask → r = r' := by
  decide

theorem selRows_instr_inj : ∀ r ∈ selRows, ∀ r' ∈ selRows, r.instr = r'.instr → r = r' := by
  decide

theorem eq_of_hits {w : BitVec 10} {r r' : Row 10} (hr : r ∈ selRows) (hr' : r' ∈ selRows) (h : r.hits w = true)
    (h' : r'.hits w = true) : r = r' := by
  refine selRows_disjoint r hr r' hr' ?_
  rw [← beq_iff_eq.mp h, ← beq_iff_eq.mp h', BitVec.and_assoc, BitVec.and_assoc, BitVec.and_comm r.mask]

/-- A row of the SEL table is what the decoder reads as its instruction. -/
theorem isSelRow_of_mem {i : Instr} {mask value : BitVec 10} (h : ⟨mask, value, i⟩ ∈ selRows) :
    isSelRow i mask value := by
  refine ⟨(selRows_encode _ h).1, fun w => decode_sel_ok.trans ⟨fun hw => ?_, fun hw => ?_⟩⟩
  · obtain ⟨r, hr, hhit, hi⟩ := findRow_some hw
    cases selRows_instr_inj r hr _ h hi
    exact beq_iff_eq.mp hhit
  · have hhit : Row.hits ⟨mask, value, i⟩ w = true := beq_iff_eq.mpr hw
    cases hf : findRow selRows w with
    | none => exact absurd hhit (findRow_eq_none.mp hf _ h)
    | some j =>
      obtain ⟨r, hr, hhit', rfl⟩ := findRow_some hf
      rw [eq_of_hits hr h hhit' hhit]

/-! The transitions, one by one. -/

/-- Settles O26. -/
theorem pollShutdownTerminates : Obligations.PollShutdownTerminates :=
  ⟨isSelRow_of_mem (by decide), fun _ i b hi hc hs => exec_of_transition (.pollShutdown i b hi hc hs)⟩

/-- Settles O27. -/
theorem pollContinueIssuesRead : Obligations.PollContinueIssuesRead :=
  ⟨isSelRow_of_mem (by decide), fun _ i b hi hc hs => exec_of_transition (.pollContinue i b hi hc hs)⟩

/-- Settles O28. -/
theorem rxTimeoutDiscardsBuffer : Obligations.RxTimeoutDiscardsBuffer :=
  ⟨isSelRow_of_mem (by decide), fun _ i b hi hc hr => exec_of_transition (.rxTimeout i b hi hc hr)⟩

/-- Settles O29. -/
theorem rxFatalTerminates : Obligations.RxFatalTerminates :=
  ⟨isSelRow_of_mem (by decide), fun _ i b hi hc hr => exec_of_transition (.rxFatal i b hi hc hr)⟩

theorem overflows_eq_false {s : State} {b bytes : List Byte}
    (h : ∀ c, s.params.bufCap = some c → b.length + bytes.length ≤ c) : s.overflows b bytes = false := by
  cases hcap : s.params.bufCap with
  | none => simp [State.overflows, hcap, fits]
  | some c => exact Bool.eq_false_iff.mpr fun ho => Nat.not_lt.mpr (h c hcap) ((overflows_iff hcap b bytes).mp ho)

/-- Settles O30: BufferOverflow is raised exactly above a finite BUF_CAP. -/
theorem rxDataAppendsOrOverflows : Obligations.RxDataAppendsOrOverflows := by
  refine ⟨isSelRow_of_mem (by decide), fun s i b bytes hi hc hr hlen => ?_⟩
  have hne : bytes ≠ [] := List.ne_nil_of_length_pos hlen
  refine ⟨fun hfit => ?_, fun c hcap hlt => ⟨?_, rfl, rfl⟩⟩
  · exact exec_of_transition (.rxData i b bytes hi hc hr hne (overflows_eq_false hfit))
  · exact exec_of_transition (.rxOverflow i b bytes hi hc hr hne ((overflows_iff hcap b bytes).mpr hlt))

/-- Settles O31. -/
theorem rxZeroKeepsBuffer : Obligations.RxZeroKeepsBuffer :=
  ⟨isSelRow_of_mem (by decide), fun _ i b hi hc hr => exec_of_transition (.rxZero i b hi hc hr)⟩

/-- Settles O32: one transition for each value of EOS_AS. -/
theorem rxEosFollowsParameter : Obligations.RxEosFollowsParameter :=
  ⟨isSelRow_of_mem (by decide), fun _ i b hi hc hr =>
    ⟨fun he => exec_of_transition (.rxEosTimeout i b hi hc hr he),
      fun he => exec_of_transition (.rxEosFatal i b hi hc hr he),
      fun he => exec_of_transition (.rxEosZero i b hi hc hr he)⟩⟩

/-- Settles O33: on the buffers that DECODE calls TooShort (R150). -/
theorem drainTooShortKeepsBuffer : Obligations.DrainTooShortKeepsBuffer :=
  ⟨isSelRow_of_mem (by decide), fun _ i b hi hc hshort =>
    exec_of_transition (.drainTooShort i b b hi hc (decodeBuf_of_short hshort))⟩

/-- Settles O34: in either class the failed comparison empties the remainder (R151). -/
theorem drainBadCrcWipesBuffer : Obligations.DrainBadCrcWipesBuffer := by
  refine ⟨isSelRow_of_mem (by decide), fun s i b hi hc hbad => ?_⟩
  have hd : decodeBuf b = .checksumMismatch [] := by
    rcases hbad with ⟨h8, hf, hcrc⟩ | ⟨h5, hf, hcrc⟩
    · rw [decodeBuf_of_fixed_long h8 hf, judge_of_not_check hcrc]
    · rw [decodeBuf_of_var h5 hf, decodeVar, judge_of_not_check hcrc]
  exact exec_of_transition (.drainBadCrc i b [] hi hc hd)

/-- Settles O35. -/
theorem drainOkBuildsRequest : Obligations.DrainOkBuildsRequest :=
  ⟨isSelRow_of_mem (by decide), fun _ i b rem f hi hc hd =>
    ⟨exec_of_transition (.drainOk i b rem f hi hc hd), rfl, rfl, rfl⟩⟩

/-- Settles O36. -/
theorem pushCompleteAppendsRequest : Obligations.PushCompleteAppendsRequest :=
  ⟨isSelRow_of_mem (by decide), fun _ i b rem q hi hc hroom =>
    ⟨exec_of_transition (.pushComplete i b rem q hi hc (decide_eq_true hroom)), rfl, rfl⟩⟩

/-- Settles O37: a sink filled to SINK_CAP has no room. -/
theorem pushBlockedChangesNothing : Obligations.PushBlockedChangesNothing :=
  ⟨isSelRow_of_mem (by decide), fun _ i b rem q hi hc hfull =>
    exec_of_transition (.pushBlocked i b rem q hi hc (decide_eq_false hfull.not_lt))⟩

/-- Settles O38. -/
theorem termHaltChangesNothing : Obligations.TermHaltChangesNothing :=
  ⟨isSelRow_of_mem (by decide), fun _ i hi hc => exec_of_transition (.termHalt i hi hc)⟩

/-! One rule at most applies. -/

section Selected

variable {s t : State} {i : Instance} {j : Instr}

theorem rxNonZero_ok {bytes : List Byte} (h : bytes ≠ []) : rxNonZero (.ok bytes) = true := by
  simpa [rxNonZero] using h

/-- The instruction of a transition whose rule applies is the one the SEL word selects (R95). -/
theorem eq_selected_of_transition (hi : s.insts[s.cur]? = some i) (h : Transition s j t) :
    j = selected i.ctl.phase i.shutdown s.rxsField s.nzField i.ctl.errField s.room := by
  cases h with
  | rxData i' b bytes hi' hc hr hne | rxOverflow i' b bytes hi' hc hr hne =>
    obtain rfl : i = i' := Option.some.inj (hi.symm.trans hi')
    simp [selected, Ctl.phase, State.rxsField, State.nzField, rxsCode, hc, hr, rxNonZero_ok hne]
  | rxZero i' | rxTimeout i' | rxFatal i' | rxEosTimeout i' | rxEosFatal i' | rxEosZero i' =>
    obtain rfl : i = i' := Option.some.inj (hi.symm.trans ‹_›)
    simp [selected, Ctl.phase, State.rxsField, State.nzField, rxsCode, rxNonZero, *]
  | drainOk i' | drainTooShort i' | drainBadCrc i' =>
    obtain rfl : i = i' := Option.some.inj (hi.symm.trans ‹_›)
    simp [selected, Ctl.phase, Ctl.errField, Ctl.buf, DecodeResult.status, Status.code, *]
  | pollShutdown i' | pollContinue i' | pushComplete i' | pushBlocked i' | termHalt i' =>
    obtain rfl : i = i' := Option.some.inj (hi.symm.trans ‹_›)
    simp [selected, Ctl.phase, *]

/-- What a SEL instruction may answer where an instance is selected: a next state, or that it is not
selected (log entry 13). -/
def NextOrNotSelected (o : Out) : Prop := (∃ t, o = .next t) ∨ o = .refused .notSelected

theorem nextOrNotSelected_next (t : State) : NextOrNotSelected (.next t) := .inl ⟨t, rfl⟩

theorem nextOrNotSelected_notSelected : NextOrNotSelected (.refused .notSelected) := .inr rfl

theorem nextOrNotSelected_onSelected (hi : s.insts[s.cur]? = some i) {k : Instance → Out}
    (hk : NextOrNotSelected (k i)) : NextOrNotSelected (s.onSelected k) := by
  rwa [onSelected_eq hi]

theorem nextOrNotSelected_onRead (hi : s.insts[s.cur]? = some i) {k : Instance → List Byte → ReadResult → Out}
    (hk : ∀ b r, NextOrNotSelected (k i b r)) : NextOrNotSelected (s.onRead k) := by
  refine nextOrNotSelected_onSelected hi ?_
  split
  · exact hk _ _
  · exact nextOrNotSelected_notSelected

/-- Where an instance is selected, a SEL instruction completes or is refused as not selected. -/
theorem nextOrNotSelected_exec (hi : s.insts[s.cur]? = some i) (hj : j ∈ transitions) : NextOrNotSelected (exec j s) := by
  cases j with
  | pollShutdown | pollContinue | pushComplete | pushBlocked | termHalt =>
    refine nextOrNotSelected_onSelected hi ?_
    split
    · exact nextOrNotSelected_next _
    all_goals exact nextOrNotSelected_notSelected
  | rxData | rxZero | rxTimeout | rxFatal | rxEos =>
    refine nextOrNotSelected_onRead hi fun b r => ?_
    split
    · exact nextOrNotSelected_next _
    all_goals exact nextOrNotSelected_notSelected
  | drainOk | drainTooShort | drainBadCrc =>
    refine nextOrNotSelected_onSelected hi ?_
    split
    · split
      · exact nextOrNotSelected_next _
      all_goals exact nextOrNotSelected_notSelected
    all_goals exact nextOrNotSelected_notSelected
  | _ => simp [transitions] at hj

/-- What completes is what the SEL word selects; so nothing else completes. -/
theorem exec_notSelected (hi : s.insts[s.cur]? = some i) (hj : j ∈ transitions)
    (hne : j ≠ selected i.ctl.phase i.shutdown s.rxsField s.nzField i.ctl.errField s.room) :
    exec j s = .refused .notSelected := by
  rcases nextOrNotSelected_exec hi hj with ⟨t, h⟩ | h
  · exact absurd (eq_selected_of_transition hi (transition_of_exec hj h)) hne
  · exact h

end Selected

/-- Settles O39: the transition that the SEL word selects applies, and what completes is that one. -/
theorem exactlyOneTransitionApplies : Obligations.ExactlyOneTransitionApplies := by
  intro s i hi hf hr
  obtain ⟨t, ht⟩ := exists_transition hi hf hr
  have hdec := decode_selWord s i
  exact ⟨_, decode_sel_mem hdec, hdec, ⟨t, exec_of_transition ht⟩, fun j hj hne => exec_notSelected hi hj hne⟩

end Sys2Proof.Machine
end

section
/-! PROOFS. The big step of R176. What drain gives is the result of DECODE steps, one after another; each of them is a
DRAIN step of the instance, and each frame a PUSH step more, so a chunk is drained in twice as many steps as it has
frames and one. -/

namespace Sys2Proof.Machine

/-! drain, by what DECODE answers (R176). -/

/-- The buffer gives these frames, in order, and leaves the rest. -/
inductive Drains : List Byte → List Frame → List Byte → Prop where
  | tooShort {b : List Byte} (h : decodeBuf b = .tooShort b) : Drains b [] b
  | mismatch {b : List Byte} (h : decodeBuf b = .checksumMismatch []) : Drains b [] []
  | ok {b rem rest : List Byte} {f : Frame} {fs : List Frame} (h : decodeBuf b = .ok f rem) (hrem : Drains rem fs rest) :
      Drains b (f :: fs) rest

theorem drains_drainWith {n : Nat} {b : List Byte} (h : b.length < n) :
    Drains b (drainWith n b).1 (drainWith n b).2 := by
  induction n generalizing b with
  | zero => exact absurd h (Nat.not_lt_zero _)
  | succ n ih =>
    cases hd : decodeBuf b with
    | tooShort r =>
      obtain rfl := decodeBuf_tooShort_self hd
      simpa only [drainWith, hd] using Drains.tooShort hd
    | checksumMismatch r =>
      obtain rfl := decodeBuf_mismatch_nil hd
      simpa only [drainWith, hd] using Drains.mismatch hd
    | ok f rem =>
      have hlt := length_remainder_lt hd
      simpa only [drainWith, hd] using Drains.ok hd (ih (by omega))

theorem drains_drain (b : List Byte) : Drains b (drain b).1 (drain b).2 :=
  drains_drainWith b.length.lt_succ_self

theorem Drains.of_nil {fs : List Frame} {r : List Byte} (h : Drains [] fs r) : fs = [] := by
  cases h with
  | tooShort | mismatch => rfl
  | ok h => cases (decodeBuf_of_short (.inl (by decide))).symm.trans h

/-- Frames but the last take eight bytes each (R175): only the fixed-length class leaves a remainder. -/
theorem Drains.length_le {b rest : List Byte} {fs : List Frame} (h : Drains b fs rest) :
    fs.length ≤ b.length / 8 + 1 := by
  induction h with
  | tooShort | mismatch => exact Nat.zero_le _
  | @ok b rem rest f fs h hrem ih =>
    obtain ⟨hvalid, rfl, hvar⟩ := eq_encodeFrame_append_of_decode h
    rw [List.length_append, length_encodeFrame, List.length_cons]
    rcases codecValid_iff.mp hvalid with ⟨-, hdata⟩ | ⟨hf, -⟩
    · omega
    · obtain rfl := hvar hf
      rw [hrem.of_nil, List.length_nil]
      omega

/-! Steps of one instance. -/

section Steps

variable {s t u : State} {p : Nat} {i : Instance} {j : Instr} {rest : List Move}

theorem steps_succ_of_step (h : step s = .next t) (n : Nat) : steps (n + 1) s = steps n t := by
  simp only [steps, h]

/-- A step that fetches the SEL word of the selected instance does the transition whose rule applies. -/
theorem step_of_fetch_selWord (hf : s.fetch = .code (.sel (u.selWord i)) u) (hi : u.insts[u.cur]? = some i)
    (h : Transition u j t) : step s = .next t := by
  have hd : decodeCode (.sel (u.selWord i)) = .ok j := by
    rw [decode_selWord, eq_selected_of_transition hi h]
  rw [step_of_fetch_code hf hd, exec_of_transition h]

/-- The instance is let run, and its transition is taken. -/
theorem step_run (he : s.env = .run p :: rest) (hi : s.insts[p]? = some i) (hr : ∀ b, i.ctl ≠ .read b)
    (hf : ∀ b, i.ctl ≠ .faulted b) (h : Transition (State.select { s with env := rest } p none) j t) :
    step s = .next t :=
  step_of_fetch_selWord ((fetch_run_listed he).trans (fetchRun_of_ready hi hr hf)) hi h

/-- The port completes the read, and the transition of its result is taken. -/
theorem step_rx {r : ReadResult} {b : List Byte} (he : s.env = .rx p r :: rest) (hi : s.insts[p]? = some i)
    (hc : i.ctl = .read b) (hw : r.wf s.params = true)
    (h : Transition (State.select { s with env := rest } p (some r)) j t) : step s = .next t :=
  step_of_fetch_selWord ((fetch_rx_listed he).trans (fetchRx_of_reading hi hc hw)) hi h

/-- A chunk that the port may return and BUF has room for goes behind BUF (R166). -/
theorem step_chunk {b bytes : List Byte} (he : s.env = .rx p (.ok bytes) :: rest) (hi : s.insts[p]? = some i)
    (hc : i.ctl = .read b) (hne : bytes ≠ []) (hread : ∀ m, s.params.readMax = some m → bytes.length ≤ m)
    (hcap : ∀ c, s.params.bufCap = some c → b.length + bytes.length ≤ c) :
    step s = .next { s with
      env := rest, cur := p, rx := none
      insts := s.insts.set p { i with ctl := .drain (b ++ bytes) } } := by
  have hwf : (ReadResult.ok bytes).wf s.params = true := by
    cases hm : s.params.readMax with
    | none => simp [ReadResult.wf, withinBound, hm]
    | some m => simpa [ReadResult.wf, withinBound, hm] using hread m hm
  exact step_rx he hi hc hwf (.rxData i b bytes hi hc rfl hne (overflows_eq_false hcap))

/-- A frame takes a DRAIN step and a PUSH step (R171, R172). -/
theorem steps_frame {b rem : List Byte} {f : Frame} (he : s.env = .run p :: .run p :: rest) (hi : s.insts[p]? = some i)
    (hc : i.ctl = .drain b) (hd : decodeBuf b = .ok f rem) (hroom : s.sink.length < s.params.sinkCap) (n : Nat) :
    steps (n + 2) s = steps n { s with
      env := rest, cur := p, rx := none
      insts := s.insts.set p { i with ctl := .drain rem }
      sink := s.sink ++ [⟨i.portId, f⟩] } := by
  have hdrain := step_run he hi (by simp [hc]) (by simp [hc]) (.drainOk i b rem f hi hc hd)
  have hi' := setCtl_selected (State.select { s with env := .run p :: rest } p none) i (.push b ⟨i.portId, f⟩ rem) hi
  have hpush := step_run (p := p) (rest := rest) rfl hi' (by simp) (by simp)
    (.pushComplete _ b rem _ hi' rfl (decide_eq_true hroom))
  rw [steps_succ_of_step hdrain, steps_succ_of_step hpush]
  simp [State.handOff, State.setCtl, State.select]

end Steps

/-- An instance in DRAIN that is let run for two steps a frame and one more hands off the frames of its buffer and is
back in POLL with the rest (R169 to R172). -/
theorem steps_drain {b r : List Byte} {fs : List Frame} (h : Drains b fs r) {p : Nat} {rest : List Move} :
    ∀ {s : State} {i : Instance}, s.insts[p]? = some i → i.ctl = .drain b →
      s.env = List.replicate (2 * fs.length + 1) (.run p) ++ rest →
      s.sink.length + fs.length ≤ s.params.sinkCap →
      steps (2 * fs.length + 1) s = .next { s with
        env := rest, cur := p, rx := none
        insts := s.insts.set p { i with ctl := .poll r }
        sink := s.sink ++ fs.map fun f => ⟨i.portId, f⟩ } := by
  induction h with
  | tooShort hd =>
    intro s i hi hc he _
    rw [steps_succ_of_step (step_run he hi (by simp [hc]) (by simp [hc]) (.drainTooShort i _ _ hi hc hd))]
    simp [steps, State.setCtl, State.select]
  | mismatch hd =>
    intro s i hi hc he _
    rw [steps_succ_of_step (step_run he hi (by simp [hc]) (by simp [hc]) (.drainBadCrc i _ _ hi hc hd))]
    simp [steps, State.setCtl, State.select]
  | @ok b rem r f fs hd _ ih =>
    intro s i hi hc he hroom
    have hlt : p < s.insts.length := (List.getElem?_eq_some_iff.mp hi).1
    simp only [List.length_cons, Nat.mul_succ] at he hroom ⊢
    rw [steps_frame he hi hc hd (by omega),
      ih (i := { i with ctl := .drain rem }) (by simp [hlt]) rfl rfl (by simp; omega)]
    simp

/-- A chunk behind BUF is drained in one run (R176). -/
theorem steps_chunk {s : State} {p : Nat} {i : Instance} {b bytes r : List Byte} {fs : List Frame} {rest : List Move}
    (hd : Drains (b ++ bytes) fs r)
    (he : s.env = .rx p (.ok bytes) :: (List.replicate (2 * fs.length + 1) (.run p) ++ rest))
    (hi : s.insts[p]? = some i) (hc : i.ctl = .read b) (hne : bytes ≠ [])
    (hread : ∀ m, s.params.readMax = some m → bytes.length ≤ m)
    (hcap : ∀ c, s.params.bufCap = some c → b.length + bytes.length ≤ c)
    (hroom : s.sink.length + fs.length ≤ s.params.sinkCap) :
    steps (2 * fs.length + 1 + 1) s = .next { s with
      env := rest, cur := p, rx := none
      insts := s.insts.set p { i with ctl := .poll r }
      sink := s.sink ++ fs.map fun f => ⟨i.portId, f⟩ } := by
  have hlt : p < s.insts.length := (List.getElem?_eq_some_iff.mp hi).1
  rw [steps_succ_of_step (step_chunk he hi hc hne hread hcap),
    steps_drain hd (i := { i with ctl := .drain (b ++ bytes) }) (by simp [hlt]) rfl rfl (by simpa using hroom)]
  simp

/-- Settles O50: the chunk is drained in two steps a frame and one more, and the frames are bounded by their length. -/
theorem chunkIsDrainedInOneRun : Obligations.ChunkIsDrainedInOneRun := by
  intro s p i b bytes rest hi hc hne hread hcap hroom
  have hd := drains_drain (b ++ bytes)
  exact ⟨hd.length_le, _, steps_chunk (s := { s with env := _ }) hd rfl hi hc hne hread hcap hroom⟩

end Sys2Proof.Machine
end

section
/-! PROOFS. The moves of the agents outside the block (60_exceptions.md): what the consumer's, the controller's and a
waiting instance's move does (R39, R215, R216), and the moves that are refused by name (R94, R212, R240; log entry 18).
A listed move is the step of its agent; each agent's operation is said case by case. -/

namespace Sys2Proof.Machine

/-! The step of a listed move. -/

section Listed

variable {s : State} {p : Nat} {rest : List Move}

theorem step_run_of_ends {o : Out} (h : s.env = .run p :: rest)
    (hf : State.fetchRun { s with env := rest } p = .ends o) : step s = o := by
  rw [step_eq_run, fetch_run_listed h, hf, Fetched.run]

theorem step_rx_of_ends {r : ReadResult} {o : Out} (h : s.env = .rx p r :: rest)
    (hf : State.fetchRx { s with env := rest } p r = .ends o) : step s = o := by
  rw [step_eq_run, fetch_rx_listed h, hf, Fetched.run]

theorem step_pop_listed (h : s.env = .pop :: rest) : step s = State.popSink { s with env := rest } := by
  simp only [step, State.fetch, nextMove_of_env_cons h]

theorem step_shutdown_listed {level : Bool} (h : s.env = .shutdown p level :: rest) :
    step s = State.driveShutdown { s with env := rest } p level := by
  simp only [step, State.fetch, nextMove_of_env_cons h]

theorem step_create_listed (h : s.env = .create p :: rest) :
    step s = State.createInstance { s with env := rest } p := by
  simp only [step, State.fetch, nextMove_of_env_cons h]

theorem step_call_listed {op : BitVec 4} {a : Args} (h : s.env = .call op a :: rest) :
    step s = runCode (.op op) (State.withArgs { s with env := rest } a) := by
  rw [step_eq_run, fetch_call_listed h]
  rfl

end Listed

/-! Each agent's operation, case by case. -/

section Agents

variable {s : State} {p : Nat} {i : Instance} {r : ReadResult} {level : Bool}

theorem popSink_of_cons {q : Request} {qs : List Request} (h : s.sink = q :: qs) :
    s.popSink = .next { s with sink := qs } := by
  simp only [State.popSink, h]

theorem popSink_of_nil (h : s.sink = []) : s.popSink = .refused .sinkEmpty := by
  simp only [State.popSink, h]

theorem driveShutdown_of_some (hi : s.insts[p]? = some i) :
    s.driveShutdown p level = .next { s with insts := s.insts.set p { i with shutdown := level } } := by
  simp only [State.driveShutdown, hi]

theorem driveShutdown_of_none (hi : s.insts[p]? = none) : s.driveShutdown p level = .refused .noSuchInstance := by
  simp only [State.driveShutdown, hi]

theorem createInstance_of_term (hi : s.insts[p]? = some i) (hc : i.ctl = .term) :
    s.createInstance p = .next { s with insts := s.insts.set p { i with ctl := .poll [] } } := by
  simp only [State.createInstance, hi, hc]

theorem createInstance_of_not_term (hi : s.insts[p]? = some i) (hc : i.ctl ≠ .term) :
    s.createInstance p = .refused .portInUse := by
  simp only [State.createInstance, hi]
  cases h : i.ctl with
  | term => exact absurd h hc
  | poll | read | drain | push | faulted => rfl

theorem createInstance_of_none (hi : s.insts[p]? = none) : s.createInstance p = .refused .noSuchInstance := by
  simp only [State.createInstance, hi]

/-- In READ an instance waits for its port, and after BufferOverflow it has stopped (R66, R163; log entry 11). -/
theorem fetchRun_of_waiting (hi : s.insts[p]? = some i)
    (hw : (∃ b, i.ctl = .read b) ∨ ∃ b, i.ctl = .faulted b) : s.fetchRun p = .ends (.next s) := by
  rcases hw with ⟨b, hc⟩ | ⟨b, hc⟩ <;> simp only [State.fetchRun, hi, hc]

theorem fetchRun_of_none (hi : s.insts[p]? = none) : s.fetchRun p = .ends (.refused .noSuchInstance) := by
  simp only [State.fetchRun, hi]

theorem fetchRx_of_not_reading (hi : s.insts[p]? = some i) (hr : ∀ b, i.ctl ≠ .read b) :
    s.fetchRx p r = .ends (.refused .noReadPending) := by
  simp only [State.fetchRx, hi]
  cases h : i.ctl with
  | read b => exact absurd h (hr b)
  | poll | drain | push | term | faulted => rfl

theorem fetchRx_of_chunkTooLong {b : List Byte} (hi : s.insts[p]? = some i) (hc : i.ctl = .read b)
    (hw : chunkFits s.params.readMax r = false) : s.fetchRx p r = .ends (.refused .chunkTooLong) := by
  simp [State.fetchRx, hi, hc, hw]

theorem fetchRx_of_none (hi : s.insts[p]? = none) : s.fetchRx p r = .ends (.refused .noSuchInstance) := by
  simp only [State.fetchRx, hi]

theorem chunkFits_eq_false {bytes : List Byte} {m : Nat} (h : m < bytes.length) :
    chunkFits (some m) (.ok bytes) = false :=
  decide_eq_false (Nat.not_le.mpr h)

theorem runCode_of_reserved {op : BitVec 4} (h : 0xC ≤ op.toNat) : runCode (.op op) s = .refused .reservedOp := by
  simp only [runCode, decode_op_reserved.mpr ((findRow_opRows_none op).mpr h), refusalOf]

end Agents

/-- Settles O42, move by move. -/
theorem environmentMovesAndWaits : Obligations.EnvironmentMovesAndWaits := by
  refine ⟨?pop, ?shutdown, ?create, ?wait⟩
  case pop =>
    intro s q qs rest he hs
    exact (step_pop_listed he).trans (popSink_of_cons hs)
  case shutdown =>
    intro s p level rest i he hi
    exact (step_shutdown_listed he).trans (driveShutdown_of_some hi)
  case create =>
    intro s p rest i he hi hc
    exact (step_create_listed he).trans (createInstance_of_term hi hc)
  case wait =>
    intro s p rest i he hi hw
    exact step_run_of_ends he (fetchRun_of_waiting hi hw)

/-- Settles O43, refusal by refusal; where there is no instance, by the agent that names it. -/
theorem illFormedMovesStopByName : Obligations.IllFormedMovesStopByName := by
  intro s rest
  refine ⟨?noRead, ?tooLong, ?empty, ?inUse, ?reserved, ?noInstance⟩
  case noRead =>
    intro p r i he hi hr
    exact step_rx_of_ends he (fetchRx_of_not_reading hi hr)
  case tooLong =>
    intro p bytes i b m he hi hc hm hlt
    have hfit : chunkFits s.params.readMax (.ok bytes) = false := hm ▸ chunkFits_eq_false hlt
    exact step_rx_of_ends he (fetchRx_of_chunkTooLong hi hc hfit)
  case empty =>
    intro he hs
    exact (step_pop_listed he).trans (popSink_of_nil hs)
  case inUse =>
    intro p i he hi hc
    exact (step_create_listed he).trans (createInstance_of_not_term hi hc)
  case reserved =>
    intro op a he hop
    exact (step_call_listed he).trans (runCode_of_reserved hop)
  case noInstance =>
    rintro p hi (he | ⟨r, he⟩ | he | ⟨level, he⟩)
    · exact step_run_of_ends he (fetchRun_of_none hi)
    · exact step_rx_of_ends he (fetchRx_of_none hi)
    · exact (step_create_listed he).trans (createInstance_of_none hi)
    · exact (step_shutdown_listed he).trans (driveShutdown_of_none hi)

end Sys2Proof.Machine
end

section
/-! PROOFS. Mixed buffers (R247). A buffer drains in one way only, so drain is known once a way is shown; and fixed-length
frames in front of a buffer are drained one by one and leave the buffer as it was. -/

namespace Sys2Proof.Machine

section Mixed

variable {b r r' : List Byte} {fs gs : List Frame}

/-- DECODE is a function, so at each buffer only one rule for Drains applies (R176). -/
theorem Drains.unique (h : Drains b fs r) (h' : Drains b gs r') : fs = gs ∧ r = r' := by
  induction h generalizing gs with
  | tooShort hd =>
    cases h' with
    | tooShort => exact ⟨rfl, rfl⟩
    | mismatch hd' | ok hd' => cases hd.symm.trans hd'
  | mismatch hd =>
    cases h' with
    | mismatch => exact ⟨rfl, rfl⟩
    | tooShort hd' | ok hd' => cases hd.symm.trans hd'
  | ok hd _ ih =>
    cases h' with
    | ok hd' hrest =>
      cases hd.symm.trans hd'
      obtain ⟨rfl, rfl⟩ := ih hrest
      exact ⟨rfl, rfl⟩
    | tooShort hd' | mismatch hd' => cases hd.symm.trans hd'

theorem Drains.drain_eq (h : Drains b fs r) : drain b = (fs, r) := by
  obtain ⟨hframes, hrest⟩ := (drains_drain b).unique h
  exact Prod.ext hframes hrest

/-- Encoded fixed-length frames in front of a buffer are drained first (R148, R176). -/
theorem Drains.fixed_append (hfixed : ∀ f ∈ fs, f.function.toNat ≤ 5 ∧ f.data.length = 4) (h : Drains b gs r) :
    Drains (fs.flatMap encodeFrame ++ b) (fs ++ gs) r := by
  induction fs with
  | nil => exact h
  | cons f fs ih =>
    obtain ⟨hf, hfs⟩ := List.forall_mem_cons.mp hfixed
    rw [List.flatMap_cons, List.append_assoc]
    exact .ok (decode_encodeFrame_append (codecValid_iff.mpr (.inl hf)) fun hv => by omega) (ih hfs)

/-- The encoding of a codec-valid frame gives the frame and leaves nothing (R146). -/
theorem drains_encodeFrame {f : Frame} (hvalid : codecValid f = true) : Drains (encodeFrame f) [f] [] := by
  have hdecode := decode_encodeFrame_append hvalid (rem := []) fun _ => rfl
  rw [List.append_nil] at hdecode
  exact .ok hdecode (.tooShort (decodeBuf_of_short (.inl (by decide))))

end Mixed

/-- Settles O51: behind the fixed-length frames, the last VAR frame drains to itself, and a tail below 5 bytes is TooShort. -/
theorem fixedFramesThenTail : Obligations.FixedFramesThenTail := by
  intro fs hfixed
  refine ⟨fun v hv hdata => ?var, fun tail hlen => ?tail⟩
  case var =>
    have hvalid : codecValid v = true := codecValid_iff.mpr (.inr ⟨hv, List.length_pos_of_ne_nil hdata⟩)
    exact ((drains_encodeFrame hvalid).fixed_append hfixed).drain_eq
  case tail =>
    simpa only [List.append_nil] using ((Drains.tooShort (decodeBuf_of_short (.inl hlen))).fixed_append hfixed).drain_eq

end Sys2Proof.Machine
end
